-- ==== Sys2Proof/Word.lean ====
section
/-! DEFINITION. The machine's two word sizes and the little arithmetic every file needs (R6, R11, R12). -/
namespace Sys2Proof

/-- An 8-bit value: a register, a byte of memory, an opcode (R6). -/
abbrev Byte := BitVec 8

/-- A 16-bit value: a register pair, SP, PC, an address (R6). -/
abbrev Word := BitVec 16

/-- `hi ++ lo` of R11: the 16-bit value whose more significant byte is `hi`. -/
def word (hi lo : Byte) : Word := hi ++ lo

/-- `v[15:8]` of R11. -/
def hiByte (v : Word) : Byte := v.extractLsb' 8 8

/-- `v[7:0]` of R11. -/
def loByte (v : Word) : Byte := v.extractLsb' 0 8

/-- `sext_16` of R12: the byte as a two's-complement displacement. -/
def sext16 (v : Byte) : Word := v.signExtend 16

/-- `zext_16` of R12. -/
def zext16 (v : Byte) : Word := v.setWidth 16

end Sys2Proof
end

