-- ==== Sys2Proof/Config.lean ====
section
/-! DEFINITION. The reference values of the spec's parameters (00_scope.md R7), which are fields of `State.params`, and
the free values, which are constants without a body. -/
namespace Sys2Proof

/-- What Platform does between two CPU steps (R9, R222): the interrupt requests it raises (bits 0 to 4 of IF) and the
level it leaves the signal JoypadWake at. -/
structure PlatformAct where
  requests : BitVec 5
  joypadWake : Bool
deriving DecidableEq, Repr

/-- What Platform can know of a run: a bus read it answered, a bus write it received (R56), an action it took (R9). -/
inductive BusEvent where
  | read (addr : Word)
  | write (addr : Word) (value : Byte)
  | act (a : PlatformAct)
deriving DecidableEq, Repr

/-- The reference value of `IE_ADDR` (R7, D3): PRESUMED by the spec, log entry 12. -/
def Config.ieAddr : Word := 0xFFFF

/-- The reference value of `IF_ADDR` (R7, D3): PRESUMED by the spec, log entry 12. -/
def Config.ifAddr : Word := 0xFF0F

/-- The reference value of `HIGH_BASE` (R7, D12): PRESUMED by the spec, log entry 12. -/
def Config.highBase : Word := 0xFF00

/-- The reference value of `IF_UNUSED_READ` (R36, D16): what bits 7 to 5 of IF read as, none of them stored. PRESUMED by
the spec, log entry 13. -/
def Config.ifUnusedRead : BitVec 3 := 0b111

/-- The reference value of `IE_UNUSED` (R37, D16): which of bits 7 to 5 of IE are plain storage. PRESUMED by the spec, log
entry 13. -/
def Config.ieUnusedStored : BitVec 3 := 0b111

/-- FREE VALUE: the launch content of a byte of plain memory that nothing has written (R41, R58, D19, U9). DESIGN
CHOICE, safe, log entry 4. -/
opaque Config.launchByte : Word → Byte

/-- FREE VALUE: `Platform.BusRead` (R56, R57, D2, U10): what Platform answers to a read of an address it owns, after all
it has seen and done so far (newest first). DESIGN CHOICE, log entry 7. -/
opaque Config.busRead : List BusEvent → Word → Byte

end Sys2Proof
end

