-- ==== Sys2Proof/Machine/State.lean ====
section
/-! DEFINITION. The state of the machine (10_state.md R20 to R42), the reasons a step can stop, and the state after
reset (70_reset_and_hazards.md R260, R261). -/
namespace Sys2Proof.Machine

/-- The flags of F (R25): bits 7, 6, 5, 4. Bits 3 to 0 of F are hard-wired 0 (R26) and have no storage. -/
structure Flags where
  z : Bool
  n : Bool
  h : Bool
  c : Bool
deriving DecidableEq, Repr

/-- What the core does at its next step (R40). -/
inductive Mode where
  | running | halted | stopped | locked
deriving DecidableEq, Repr

/-! ## The parameters (R7)

They are plain data in `State.params`, so that every meaning takes them as arguments. No step changes them. Log entries 12,
13, 15. -/

/-- How bits 7 to 5 of IE or of IF behave (R36, R37, D16): each bit is plain storage, or reads as a constant and ignores
writes. -/
structure UnusedBits where
  /-- The bits that are plain storage. -/
  stored : BitVec 3
  /-- What the other bits read as. -/
  value : BitVec 3
deriving DecidableEq, Repr

/-- What an account of `stop` can look at when `stop` executes (R132, U2, U3). -/
structure StopSituation where
  pad : Byte
  pending : BitVec 5
  ime : Bool
  eiPending : Bool
  joypadWake : Bool
deriving DecidableEq, Repr

/-- What an account of `stop` makes of one execution: the mode it leaves, and whether the next instruction begins at the
padding byte instead of after it (D9: "length, effect, wake"). -/
structure StopEffect where
  mode : Mode
  rereadsPad : Bool
deriving DecidableEq, Repr

/-- What an account of `stop` can look at to wake a stopped core (R238). -/
structure WakeSituation where
  joypadWake : Bool
  ie : Byte
  iflag : BitVec 5
  ime : Bool
deriving DecidableEq, Repr

/-- `STOP_SEMANTICS` (R7, R132, R238, D9): the situations in which the owner's account replaces the default, as finite
tables. A situation that is not listed follows the default; with empty tables all do. Log entry 15. -/
structure StopSemantics where
  /-- What `stop` does. -/
  entry : List (StopSituation × StopEffect)
  /-- Whether a stopped core leaves `Stopped`. -/
  wake : List (WakeSituation × Bool)
deriving DecidableEq, Repr

/-- The named parameters of R7 but `LaunchState`, which is the state a run starts in, `Platform`, which is `State.plat`, and
`EndOfRun`, which a claim supplies. -/
structure Params where
  /-- `IE_ADDR`. -/
  ieAddr : Word
  /-- `IF_ADDR`. -/
  ifAddr : Word
  /-- `HIGH_BASE`. -/
  highBase : Word
  /-- `IE_UNUSED`. -/
  ieUnused : UnusedBits
  /-- `IF_UNUSED_READ`. -/
  ifUnused : UnusedBits
  /-- `STOP_SEMANTICS`. -/
  stop : StopSemantics
deriving DecidableEq, Repr

/-- The reference values of R7. PRESUMED by the spec, log entries 12 and 13; the default `stop`, log entry 15. -/
def Params.reference : Params where
  ieAddr := Config.ieAddr
  ifAddr := Config.ifAddr
  highBase := Config.highBase
  ieUnused := ⟨Config.ieUnusedStored, 0⟩
  ifUnused := ⟨0, Config.ifUnusedRead⟩
  stop := ⟨[], []⟩

/-! ## The state -/

/-- An inclusive range of addresses. -/
structure Region where
  lo : Word
  hi : Word
deriving DecidableEq, Repr

/-- Platform (R7, R9) as plain data. Log entries 6, 7 and 9. -/
structure Platform where
  /-- The addresses that are NOT plain memory (R56, R57, R58): a read there is answered by Platform, a write there is
  received by Platform. -/
  owned : List Region
  /-- The signal `JoypadWake` (R238). -/
  joypadWake : Bool
  /-- What Platform will do before each coming step, the next action first (R222, R229). When the list is empty it does
  nothing more. -/
  inbox : List PlatformAct
  /-- What Platform has seen and done, newest first: the argument of the free value `Config.busRead`. -/
  history : List BusEvent
deriving DecidableEq, Repr

/-- The bytes of plain memory that hold a value a program or a loader wrote, by address, strictly rising. An address
that is not listed holds its launch content (R41, R58; log entry 4). -/
abbrev Memory := List Host.Cell

/-- The complete state of the machine (R20), and Platform's side of it. -/
structure State where
  /-- The accumulator A (R21). -/
  a : Byte
  /-- The register B (R21). -/
  b : Byte
  /-- The register C (R21). -/
  c : Byte
  /-- The register D (R21). -/
  d : Byte
  /-- The register E (R21). -/
  e : Byte
  /-- The register H (R21). -/
  h : Byte
  /-- The register L (R21). -/
  l : Byte
  /-- The flags register F (R25, R26). -/
  f : Flags
  /-- The stack pointer (R23). -/
  sp : Word
  /-- The program counter (R29). -/
  pc : Word
  /-- The interrupt master enable (R33). -/
  ime : Bool
  /-- Hidden: an `ei` has executed and IME is not yet set (R38). -/
  eiPending : Bool
  /-- Hidden: the next `Fetch8` does not advance PC (R39). -/
  haltBug : Bool
  /-- What the core is doing (R40). -/
  mode : Mode
  /-- The interrupt enable register IE as it is stored (R34, R37). -/
  ie : Byte
  /-- Bits 4 to 0 of the interrupt flag register IF (R35, R36). -/
  iflag : BitVec 5
  /-- What bits 7 to 5 of IF store, where `IF_UNUSED_READ` makes them storage (R36, D16). Log entry 13. -/
  ifUpper : BitVec 3
  /-- Plain memory (R41, R58). -/
  mem : Memory
  /-- Platform's side (R9). -/
  plat : Platform
  /-- The parameters of the spec (R7). No step changes them. -/
  params : Params
deriving DecidableEq, Repr

/-- The reasons the machine stops with a fault: none. No instruction raises a synchronous exception (R220) and no
access faults (R52, R53), so nobody raises one. Log entry 24. -/
inductive Fault where
deriving DecidableEq, Repr

/-- The reasons a step is refused. The spec gives each of the four situations after the first no meaning and asks a
model to refuse it (92_eei_decisions.md, "Refusals, collected"). -/
inductive Refusal where
  /-- An instruction without a meaning in this model. Raised by `exec`'s arm. Safe. No arm raises it. -/
  | notModelled (mnemonic : String)
  /-- U2, R132: `stop` whose second byte is not 0x00. Raised by `execStop`. Safe. -/
  | stopSecondByteNotZero
  /-- U3, R132: `stop` with an enabled request pending or JoypadWake already raised. Raised by `execStop`. Safe. -/
  | stopWakeConditionHolds
  /-- U4, R142: `halt` with `ei_pending` = 1 and an enabled request pending. Raised by `execHalt`. Safe. -/
  | haltAfterEiWithRequest
  /-- U6, R232: an interrupt dispatch whose push lands on `IE_ADDR` or `IF_ADDR`. Raised by `dispatchInterrupt`. Safe. -/
  | dispatchPushHitsInterruptRegister
deriving DecidableEq, Repr

/-- One step's outcome on this machine. -/
abbrev Result := Host.Outcome State Fault Refusal

/-- The machine right after reset: the spec's reference value 1, power-on (R261, R260). The registers R261 leaves
unspecified are 0 (log entry 2), SP is 0xFFFE (log entry 3), and bits 7 to 5 of IF store 0 (log entry 13); Platform owns no address and does nothing (log entries
6, 9); the parameters are at their reference values (log entries 12, 13, 15). -/
def State.reset : State where
  a := 0
  b := 0
  c := 0
  d := 0
  e := 0
  h := 0
  l := 0
  f := ⟨false, false, false, false⟩
  sp := 0xFFFE
  pc := 0x0000
  ime := false
  eiPending := false
  haltBug := false
  mode := .running
  ie := 0x00
  iflag := 0
  ifUpper := 0
  mem := []
  plat := ⟨[], false, [], []⟩
  params := Params.reference

/-- The spec's reference value 2 (R262): the registers as a cartridge program finds them after the DMG boot ROM, for a
given memory, Platform and parameters. `headerChecksumZero` says whether the cartridge's header checksum byte is 0x00. R262
gives IF as 0xE1 as read, under the reference `IF_UNUSED_READ`; where the parameters make a bit of IF's bits 7 to 5 storage it
stores 1, so that IF reads 0xE1 there too, and where they make it a constant it reads as that: DESIGN CHOICE, log entries 13
and 28. -/
def State.afterBootRom (headerChecksumZero : Bool) (mem : Memory) (plat : Platform) (params : Params) : State where
  a := 0x01
  b := 0x00
  c := 0x13
  d := 0x00
  e := 0xD8
  h := 0x01
  l := 0x4D
  f := ⟨true, false, !headerChecksumZero, !headerChecksumZero⟩
  sp := 0xFFFE
  pc := 0x0100
  ime := false
  eiPending := false
  haltBug := false
  mode := .running
  ie := 0x00
  iflag := 0b00001
  ifUpper := 0b111
  mem := mem
  plat := plat
  params := params

end Sys2Proof.Machine
end

