-- ==== Sys2Proof/Machine/Flags.lean ====
section
/-! DEFINITION. Every computation of a result with its flags, from the operands alone: the function ALU of
42_block2_alu8.md R145, the 8-bit and 16-bit increments and additions, the rotates and shifts, `daa`. -/
namespace Sys2Proof.Machine

/-! ## The eight operations on A (R145 to R153): each answers the new A and the new flags -/

/-- A plus operand plus carry in (R146 with `cin` = 0, R147). -/
def add8 (a v : Byte) (cin : Bool) : Byte × Flags :=
  let sum := a.toNat + v.toNat + cin.toNat
  let r := BitVec.ofNat 8 sum
  (r, { z := r == 0
        n := false
        h := decide (0xF < a.toNat % 16 + v.toNat % 16 + cin.toNat)
        c := decide (0xFF < sum) })

/-- A minus operand minus carry in (R148 with `cin` = 0, R149). -/
def sub8 (a v : Byte) (cin : Bool) : Byte × Flags :=
  let r := a - v - BitVec.ofNat 8 cin.toNat
  (r, { z := r == 0
        n := true
        h := decide (a.toNat % 16 < v.toNat % 16 + cin.toNat)
        c := decide (a.toNat < v.toNat + cin.toNat) })

/-- Bitwise AND; H is always set (R150). -/
def and8 (a v : Byte) : Byte × Flags :=
  (a &&& v, { z := a &&& v == 0, n := false, h := true, c := false })

/-- Bitwise exclusive OR (R151). -/
def xor8 (a v : Byte) : Byte × Flags :=
  (a ^^^ v, { z := a ^^^ v == 0, n := false, h := false, c := false })

/-- Bitwise OR (R152). -/
def or8 (a v : Byte) : Byte × Flags :=
  (a ||| v, { z := a ||| v == 0, n := false, h := false, c := false })

/-- The flags of a comparison: exactly those of the subtraction (R153). -/
def cp8 (a v : Byte) : Flags := (sub8 a v false).2

/-! ## Increment and decrement (R119, R120): C is not affected -/

/-- R119. -/
def inc8 (f : Flags) (v : Byte) : Byte × Flags :=
  let r := v + 1
  (r, { z := r == 0, n := false, h := decide (v.toNat % 16 = 0xF), c := f.c })

/-- R120. -/
def dec8 (f : Flags) (v : Byte) : Byte × Flags :=
  let r := v - 1
  (r, { z := r == 0, n := true, h := decide (v.toNat % 16 = 0x0), c := f.c })

/-! ## 16-bit sums -/

/-- `add hl, r16` (R118): H from bit 11, C from bit 15, Z not affected. -/
def add16 (f : Flags) (a b : Word) : Word × Flags :=
  (a + b, { z := f.z
            n := false
            h := decide (0x0FFF < a.toNat % 4096 + b.toNat % 4096)
            c := decide (0xFFFF < a.toNat + b.toNat) })

/-- SP plus a signed byte (R190, R191): H and C are the carries of the unsigned sum of SP's low byte and the raw byte. -/
def addSp (sp : Word) (e : Byte) : Word × Flags :=
  (sp + sext16 e, { z := false
                    n := false
                    h := decide (0xF < sp.toNat % 16 + e.toNat % 16)
                    c := decide (0xFF < sp.toNat % 256 + e.toNat) })

/-! ## Rotates and shifts (R122 to R125, R201 to R208): each answers the result and the bit shifted out -/

/-- `v[6:0] ++ v[7]`, carry `v[7]` (R122, R201). -/
def rotateLeft (v : Byte) : Byte × Bool :=
  (v.extractLsb' 0 7 ++ BitVec.ofBool (v.getLsbD 7), v.getLsbD 7)

/-- `v[0] ++ v[7:1]`, carry `v[0]` (R123, R202). -/
def rotateRight (v : Byte) : Byte × Bool :=
  (BitVec.ofBool (v.getLsbD 0) ++ v.extractLsb' 1 7, v.getLsbD 0)

/-- `v[6:0] ++ F.C`, carry `v[7]` (R124, R203). -/
def rotateLeftCarry (cin : Bool) (v : Byte) : Byte × Bool :=
  (v.extractLsb' 0 7 ++ BitVec.ofBool cin, v.getLsbD 7)

/-- `F.C ++ v[7:1]`, carry `v[0]` (R125, R204). -/
def rotateRightCarry (cin : Bool) (v : Byte) : Byte × Bool :=
  (BitVec.ofBool cin ++ v.extractLsb' 1 7, v.getLsbD 0)

/-- `v[6:0] ++ 0`, carry `v[7]` (R205). -/
def shiftLeftArith (v : Byte) : Byte × Bool :=
  (v.extractLsb' 0 7 ++ (0 : BitVec 1), v.getLsbD 7)

/-- `v[7] ++ v[7:1]`, carry `v[0]` (R206). -/
def shiftRightArith (v : Byte) : Byte × Bool :=
  (BitVec.ofBool (v.getLsbD 7) ++ v.extractLsb' 1 7, v.getLsbD 0)

/-- `0 ++ v[7:1]`, carry `v[0]` (R208). -/
def shiftRightLogic (v : Byte) : Byte × Bool :=
  ((0 : BitVec 1) ++ v.extractLsb' 1 7, v.getLsbD 0)

/-- `v[3:0] ++ v[7:4]`; the carry is 0 (R207). -/
def swapNibbles (v : Byte) : Byte × Bool :=
  (v.extractLsb' 0 4 ++ v.extractLsb' 4 4, false)

/-- The flags of the four accumulator rotates: Z always cleared (R122 to R125). -/
def rotateAFlags (r : Byte × Bool) : Byte × Flags :=
  (r.1, { z := false, n := false, h := false, c := r.2 })

/-- The flags of the $CB rotates, shifts and `swap`: Z from the result (R200). -/
def shiftFlags (r : Byte × Bool) : Byte × Flags :=
  (r.1, { z := r.1 == 0, n := false, h := false, c := r.2 })

/-- The flags of `bit b, r8` (R209): Z is the complement of the tested bit, C is not affected. -/
def bitFlags (f : Flags) (b : BitVec 3) (v : Byte) : Flags :=
  { z := !v.getLsbD b.toNat, n := false, h := true, c := f.c }

/-- `1 << b` (R210, R211). -/
def bitMask (b : BitVec 3) : Byte := BitVec.ofNat 8 (2 ^ b.toNat)

/-! ## `daa` (R126) -/

/-- Whether `daa` corrects the low digit. After a subtraction only H decides. -/
def daaFixesLow (f : Flags) (a : Byte) : Bool := f.h || (!f.n && decide (9 < a.toNat % 16))

/-- Whether `daa` corrects the high digit, which is also its carry out: C is never cleared, and an addition's correction
sets it. After a subtraction only C decides. -/
def daaFixesHigh (f : Flags) (a : Byte) : Bool := f.c || (!f.n && decide (0x99 < a.toNat))

/-- The adjustment `adj`. -/
def daaAdjust (f : Flags) (a : Byte) : Byte :=
  (if daaFixesLow f a then 0x06 else 0x00) + (if daaFixesHigh f a then 0x60 else 0x00)

/-- The new A and the new flags of `daa`. -/
def daaResult (f : Flags) (a : Byte) : Byte × Flags :=
  let r := if f.n then a - daaAdjust f a else a + daaAdjust f a
  (r, { z := r == 0, n := f.n, h := false, c := daaFixesHigh f a })

end Sys2Proof.Machine
end

