-- ==== Sys2Proof/Syntax.lean ====
section
/-! DEFINITION. The instructions: one constructor per row of spec/opcode_table.json (30_encoding.md R92 to R97, R106), and
the operand placeholders of R84 to R90. -/
namespace Sys2Proof

/-- `r8` (R84). `hlInd` is `[hl]`, the byte of memory at HL. -/
inductive R8 where
  | b | c | d | e | h | l | hlInd | a
deriving DecidableEq, Repr

/-- `r16` (R85). -/
inductive R16 where
  | bc | de | hl | sp
deriving DecidableEq, Repr

/-- `r16stk` (R86). -/
inductive R16Stk where
  | bc | de | hl | af
deriving DecidableEq, Repr

/-- `r16mem` (R87). `hli` is `[hl+]`, `hld` is `[hl-]`. -/
inductive R16Mem where
  | bc | de | hli | hld
deriving DecidableEq, Repr

/-- `cond` (R88). -/
inductive Cond where
  | nz | z | nc | c
deriving DecidableEq, Repr

/-- One constructor per row of spec/opcode_table.json, in the table's order. -/
inductive Instr where
  -- Block 0 (R92)
  | nop
  | ldR16Imm16 (r : R16) (imm : Word)
  | ldR16MemA (m : R16Mem)
  | ldAR16Mem (m : R16Mem)
  | ldImm16Sp (addr : Word)
  | incR16 (r : R16)
  | decR16 (r : R16)
  | addHlR16 (r : R16)
  | incR8 (o : R8)
  | decR8 (o : R8)
  | ldR8Imm8 (o : R8) (imm : Byte)
  | rlca
  | rrca
  | rla
  | rra
  | daa
  | cpl
  | scf
  | ccf
  | jrImm8 (e : Byte)
  | jrCondImm8 (cc : Cond) (e : Byte)
  | stop (pad : Byte)
  -- Block 1 (R93)
  | halt
  | ldR8R8 (dst src : R8)
  -- Block 2 (R94)
  | addAR8 (o : R8)
  | adcAR8 (o : R8)
  | subAR8 (o : R8)
  | sbcAR8 (o : R8)
  | andAR8 (o : R8)
  | xorAR8 (o : R8)
  | orAR8 (o : R8)
  | cpAR8 (o : R8)
  -- Block 3 (R95)
  | addAImm8 (imm : Byte)
  | adcAImm8 (imm : Byte)
  | subAImm8 (imm : Byte)
  | sbcAImm8 (imm : Byte)
  | andAImm8 (imm : Byte)
  | xorAImm8 (imm : Byte)
  | orAImm8 (imm : Byte)
  | cpAImm8 (imm : Byte)
  | retCond (cc : Cond)
  | ret
  | reti
  | jpCondImm16 (cc : Cond) (addr : Word)
  | jpImm16 (addr : Word)
  | jpHl
  | callCondImm16 (cc : Cond) (addr : Word)
  | callImm16 (addr : Word)
  | rstTgt3 (tgt : BitVec 3)
  | popR16Stk (r : R16Stk)
  | pushR16Stk (r : R16Stk)
  /-- The table's row for the byte 0xCB with its operation byte (R183). The decoder never answers it: it answers the row
  of the $CB table that the operation byte selects (log entry 19). -/
  | prefixCB (op2 : Byte)
  | ldhCA
  | ldhImm8A (off : Byte)
  | ldImm16A (addr : Word)
  | ldhAC
  | ldhAImm8 (off : Byte)
  | ldAImm16 (addr : Word)
  | addSpImm8 (e : Byte)
  | ldHlSpImm8 (e : Byte)
  | ldSpHl
  | di
  | ei
  -- the eleven invalid opcodes (R96)
  | invalidD3
  | invalidDB
  | invalidDD
  | invalidE3
  | invalidE4
  | invalidEB
  | invalidEC
  | invalidED
  | invalidF4
  | invalidFC
  | invalidFD
  -- the $CB table (R97)
  | rlcR8 (o : R8)
  | rrcR8 (o : R8)
  | rlR8 (o : R8)
  | rrR8 (o : R8)
  | slaR8 (o : R8)
  | sraR8 (o : R8)
  | swapR8 (o : R8)
  | srlR8 (o : R8)
  | bitB3R8 (b : BitVec 3) (o : R8)
  | resB3R8 (b : BitVec 3) (o : R8)
  | setB3R8 (b : BitVec 3) (o : R8)
deriving DecidableEq, Repr

end Sys2Proof
end

