-- ==== Sys2Proof/WellFormed.lean ====
section
/-! DEFINITION. Which terms of `Instr` are instructions a program can hold. -/
namespace Sys2Proof

/-- Two terms are none. `ld [hl], [hl]` has no encoding: its bit pattern is `halt` (R93, R141). The bare row of the byte
0xCB is "not an instruction by itself" (opcode_table.json's note; R183): its two bytes are an instruction of the $CB
table. Every other term is an instruction: every field value is assigned (U19). -/
def Instr.wellFormed : Instr → Bool
  | .ldR8R8 .hlInd .hlInd => false
  | .prefixCB _ => false
  | _ => true

end Sys2Proof
end

