-- ==== Sys2Proof/Decode.lean ====
section
/-! DEFINITION. The decoder (30_encoding.md R80 to R98), total on any bytes, and after it the encoder, written from the
same tables. -/
namespace Sys2Proof

/-! ## Operand fields (R84 to R88) -/

/-- R84. -/
def R8.ofBits (v : BitVec 3) : R8 :=
  match v.toNat with
  | 0 => .b | 1 => .c | 2 => .d | 3 => .e | 4 => .h | 5 => .l | 6 => .hlInd | _ => .a

/-- R85. -/
def R16.ofBits (v : BitVec 2) : R16 :=
  match v.toNat with
  | 0 => .bc | 1 => .de | 2 => .hl | _ => .sp

/-- R86. -/
def R16Stk.ofBits (v : BitVec 2) : R16Stk :=
  match v.toNat with
  | 0 => .bc | 1 => .de | 2 => .hl | _ => .af

/-- R87. -/
def R16Mem.ofBits (v : BitVec 2) : R16Mem :=
  match v.toNat with
  | 0 => .bc | 1 => .de | 2 => .hli | _ => .hld

/-- R88. -/
def Cond.ofBits (v : BitVec 2) : Cond :=
  match v.toNat with
  | 0 => .nz | 1 => .z | 2 => .nc | _ => .c

/-- Bits 5 to 3 of an opcode or operation byte. -/
def bits53 (op : Byte) : BitVec 3 := op.extractLsb' 3 3

/-- Bits 2 to 0. -/
def bits20 (op : Byte) : BitVec 3 := op.extractLsb' 0 3

/-- Bits 5 and 4. -/
def bits54 (op : Byte) : BitVec 2 := op.extractLsb' 4 2

/-- Bits 4 and 3. -/
def bits43 (op : Byte) : BitVec 2 := op.extractLsb' 3 2

/-- Bits 7 and 6, the block (R92 to R95). -/
def bits76 (op : Byte) : BitVec 2 := op.extractLsb' 6 2

/-! ## Length (R98) -/

/-- The first bytes whose instruction is 3 bytes long (R98). -/
def threeByteOpcodes : List Byte :=
  [0x01, 0x11, 0x21, 0x31, 0x08, 0xC2, 0xCA, 0xD2, 0xDA, 0xC3, 0xC4, 0xCC, 0xD4, 0xDC, 0xCD, 0xEA, 0xFA]

/-- The first bytes whose instruction is 2 bytes long (R98), the byte 0xCB among them. -/
def twoByteOpcodes : List Byte :=
  [0xCB, 0x06, 0x0E, 0x16, 0x1E, 0x26, 0x2E, 0x36, 0x3E, 0x10, 0x18, 0x20, 0x28, 0x30, 0x38,
   0xC6, 0xCE, 0xD6, 0xDE, 0xE6, 0xEE, 0xF6, 0xFE, 0xE0, 0xF0, 0xE8, 0xF8]

/-- The length in bytes of the instruction whose first byte is `op` (R98). -/
def opcodeLength (op : Byte) : Nat :=
  if threeByteOpcodes.contains op then 3 else if twoByteOpcodes.contains op then 2 else 1

/-! ## The blocks -/

/-- Block 0, opcodes 0x00 to 0x3F (R92). `b1` and `b2` are the bytes after the opcode. -/
def decodeBlock0 (op b1 b2 : Byte) : Instr :=
  match (bits20 op).toNat with
  | 0 =>
    match (bits53 op).toNat with
    | 0 => .nop
    | 1 => .ldImm16Sp (word b2 b1)
    | 2 => .stop b1
    | 3 => .jrImm8 b1
    | _ => .jrCondImm8 (Cond.ofBits (bits43 op)) b1
  | 1 => if op.getLsbD 3 then .addHlR16 (R16.ofBits (bits54 op)) else .ldR16Imm16 (R16.ofBits (bits54 op)) (word b2 b1)
  | 2 => if op.getLsbD 3 then .ldAR16Mem (R16Mem.ofBits (bits54 op)) else .ldR16MemA (R16Mem.ofBits (bits54 op))
  | 3 => if op.getLsbD 3 then .decR16 (R16.ofBits (bits54 op)) else .incR16 (R16.ofBits (bits54 op))
  | 4 => .incR8 (R8.ofBits (bits53 op))
  | 5 => .decR8 (R8.ofBits (bits53 op))
  | 6 => .ldR8Imm8 (R8.ofBits (bits53 op)) b1
  | _ =>
    match (bits53 op).toNat with
    | 0 => .rlca | 1 => .rrca | 2 => .rla | 3 => .rra | 4 => .daa | 5 => .cpl | 6 => .scf | _ => .ccf

/-- Block 1, opcodes 0x40 to 0x7F: 0x76 is tested before the pattern of `ld r8, r8` (R93). -/
def decodeBlock1 (op : Byte) : Instr :=
  if op = 0x76 then .halt else .ldR8R8 (R8.ofBits (bits53 op)) (R8.ofBits (bits20 op))

/-- Block 2, opcodes 0x80 to 0xBF (R94). -/
def decodeBlock2 (op : Byte) : Instr :=
  let o := R8.ofBits (bits20 op)
  match (bits53 op).toNat with
  | 0 => .addAR8 o | 1 => .adcAR8 o | 2 => .subAR8 o | 3 => .sbcAR8 o
  | 4 => .andAR8 o | 5 => .xorAR8 o | 6 => .orAR8 o | _ => .cpAR8 o

/-- The $CB table (R97): all 256 operation bytes. -/
def decodeCB (op2 : Byte) : Instr :=
  let o := R8.ofBits (bits20 op2)
  match (bits76 op2).toNat with
  | 0 =>
    match (bits53 op2).toNat with
    | 0 => .rlcR8 o | 1 => .rrcR8 o | 2 => .rlR8 o | 3 => .rrR8 o
    | 4 => .slaR8 o | 5 => .sraR8 o | 6 => .swapR8 o | _ => .srlR8 o
  | 1 => .bitB3R8 (bits53 op2) o
  | 2 => .resB3R8 (bits53 op2) o
  | _ => .setB3R8 (bits53 op2) o

/-- Block 3, opcodes 0xC0 to 0xFF (R95, R96). The byte 0xCB hands over to the $CB table (R81). -/
def decodeBlock3 (op b1 b2 : Byte) : Instr :=
  match (bits20 op).toNat with
  | 0 =>
    match (bits53 op).toNat with
    | 4 => .ldhImm8A b1
    | 5 => .addSpImm8 b1
    | 6 => .ldhAImm8 b1
    | 7 => .ldHlSpImm8 b1
    | _ => .retCond (Cond.ofBits (bits43 op))
  | 1 =>
    match (bits53 op).toNat with
    | 1 => .ret
    | 3 => .reti
    | 5 => .jpHl
    | 7 => .ldSpHl
    | _ => .popR16Stk (R16Stk.ofBits (bits54 op))
  | 2 =>
    match (bits53 op).toNat with
    | 4 => .ldhCA
    | 5 => .ldImm16A (word b2 b1)
    | 6 => .ldhAC
    | 7 => .ldAImm16 (word b2 b1)
    | _ => .jpCondImm16 (Cond.ofBits (bits43 op)) (word b2 b1)
  | 3 =>
    match (bits53 op).toNat with
    | 0 => .jpImm16 (word b2 b1)
    | 1 => decodeCB b1
    | 2 => .invalidD3
    | 3 => .invalidDB
    | 4 => .invalidE3
    | 5 => .invalidEB
    | 6 => .di
    | _ => .ei
  | 4 =>
    match (bits53 op).toNat with
    | 4 => .invalidE4
    | 5 => .invalidEC
    | 6 => .invalidF4
    | 7 => .invalidFC
    | _ => .callCondImm16 (Cond.ofBits (bits43 op)) (word b2 b1)
  | 5 =>
    match (bits53 op).toNat with
    | 1 => .callImm16 (word b2 b1)
    | 3 => .invalidDD
    | 5 => .invalidED
    | 7 => .invalidFD
    | _ => .pushR16Stk (R16Stk.ofBits (bits54 op))
  | 6 =>
    match (bits53 op).toNat with
    | 0 => .addAImm8 b1 | 1 => .adcAImm8 b1 | 2 => .subAImm8 b1 | 3 => .sbcAImm8 b1
    | 4 => .andAImm8 b1 | 5 => .xorAImm8 b1 | 6 => .orAImm8 b1 | _ => .cpAImm8 b1
  | _ => .rstTgt3 (bits53 op)

/-- The instruction whose first byte is `op` and whose further bytes, as far as its length (R98) reaches, are `b1` and
`b2` (R81). Total: every value of every byte selects exactly one rule (R100, R101). -/
def decode (op b1 b2 : Byte) : Instr :=
  match (bits76 op).toNat with
  | 0 => decodeBlock0 op b1 b2
  | 1 => decodeBlock1 op
  | 2 => decodeBlock2 op
  | _ => decodeBlock3 op b1 b2

/-- Why a list of bytes holds no whole instruction. -/
inductive DecodeError where
  /-- There is no first byte. -/
  | noOpcode
  /-- The list ends before the bytes that R98 gives the first byte's instruction. -/
  | truncated
deriving DecidableEq, Repr

/-- Decode the first instruction of a list of bytes and give the bytes after it. -/
def decodeBytes : List Byte → Except DecodeError (Instr × List Byte)
  | [] => .error .noOpcode
  | op :: rest =>
    match opcodeLength op, rest with
    | 3, b1 :: b2 :: more => .ok (decode op b1 b2, more)
    | 2, b1 :: more => .ok (decode op b1 0, more)
    | 1, more => .ok (decode op 0 0, more)
    | _, _ => .error .truncated

/-! ## The encoder -/

/-- R84. -/
def R8.bits : R8 → BitVec 3
  | .b => 0 | .c => 1 | .d => 2 | .e => 3 | .h => 4 | .l => 5 | .hlInd => 6 | .a => 7

/-- R85. -/
def R16.bits : R16 → BitVec 2
  | .bc => 0 | .de => 1 | .hl => 2 | .sp => 3

/-- R86. -/
def R16Stk.bits : R16Stk → BitVec 2
  | .bc => 0 | .de => 1 | .hl => 2 | .af => 3

/-- R87. -/
def R16Mem.bits : R16Mem → BitVec 2
  | .bc => 0 | .de => 1 | .hli => 2 | .hld => 3

/-- R88. -/
def Cond.bits : Cond → BitVec 2
  | .nz => 0 | .z => 1 | .nc => 2 | .c => 3

/-- An opcode from the fields `7-6`, `5-3`, `2-0`. -/
def opXYZ (x : BitVec 2) (y z : BitVec 3) : Byte := x ++ y ++ z

/-- An opcode from the fields `7-6`, `5-4`, `3-0`. -/
def opXPQ (x p : BitVec 2) (q : BitVec 4) : Byte := x ++ p ++ q

/-- An opcode from the fields `7-5`, `4-3`, `2-0`. -/
def opXCZ (x : BitVec 3) (cc : BitVec 2) (z : BitVec 3) : Byte := x ++ cc ++ z

/-- The bytes of an instruction in ascending address order (R80, R92 to R97): opcode, then imm8, or imm16 low byte first
(R83); for the $CB table 0xCB and the operation byte. -/
def encode : Instr → List Byte
  | .nop => [0x00]
  | .ldR16Imm16 r imm => [opXPQ 0 r.bits 0b0001, loByte imm, hiByte imm]
  | .ldR16MemA m => [opXPQ 0 m.bits 0b0010]
  | .ldAR16Mem m => [opXPQ 0 m.bits 0b1010]
  | .ldImm16Sp addr => [0x08, loByte addr, hiByte addr]
  | .incR16 r => [opXPQ 0 r.bits 0b0011]
  | .decR16 r => [opXPQ 0 r.bits 0b1011]
  | .addHlR16 r => [opXPQ 0 r.bits 0b1001]
  | .incR8 o => [opXYZ 0 o.bits 0b100]
  | .decR8 o => [opXYZ 0 o.bits 0b101]
  | .ldR8Imm8 o imm => [opXYZ 0 o.bits 0b110, imm]
  | .rlca => [0x07]
  | .rrca => [0x0F]
  | .rla => [0x17]
  | .rra => [0x1F]
  | .daa => [0x27]
  | .cpl => [0x2F]
  | .scf => [0x37]
  | .ccf => [0x3F]
  | .jrImm8 e => [0x18, e]
  | .jrCondImm8 cc e => [opXCZ 0b001 cc.bits 0b000, e]
  | .stop pad => [0x10, pad]
  | .halt => [0x76]
  | .ldR8R8 dst src => [opXYZ 1 dst.bits src.bits]
  | .addAR8 o => [opXYZ 2 0 o.bits]
  | .adcAR8 o => [opXYZ 2 1 o.bits]
  | .subAR8 o => [opXYZ 2 2 o.bits]
  | .sbcAR8 o => [opXYZ 2 3 o.bits]
  | .andAR8 o => [opXYZ 2 4 o.bits]
  | .xorAR8 o => [opXYZ 2 5 o.bits]
  | .orAR8 o => [opXYZ 2 6 o.bits]
  | .cpAR8 o => [opXYZ 2 7 o.bits]
  | .addAImm8 imm => [0xC6, imm]
  | .adcAImm8 imm => [0xCE, imm]
  | .subAImm8 imm => [0xD6, imm]
  | .sbcAImm8 imm => [0xDE, imm]
  | .andAImm8 imm => [0xE6, imm]
  | .xorAImm8 imm => [0xEE, imm]
  | .orAImm8 imm => [0xF6, imm]
  | .cpAImm8 imm => [0xFE, imm]
  | .retCond cc => [opXCZ 0b110 cc.bits 0b000]
  | .ret => [0xC9]
  | .reti => [0xD9]
  | .jpCondImm16 cc addr => [opXCZ 0b110 cc.bits 0b010, loByte addr, hiByte addr]
  | .jpImm16 addr => [0xC3, loByte addr, hiByte addr]
  | .jpHl => [0xE9]
  | .callCondImm16 cc addr => [opXCZ 0b110 cc.bits 0b100, loByte addr, hiByte addr]
  | .callImm16 addr => [0xCD, loByte addr, hiByte addr]
  | .rstTgt3 tgt => [opXYZ 3 tgt 0b111]
  | .popR16Stk r => [opXPQ 3 r.bits 0b0001]
  | .pushR16Stk r => [opXPQ 3 r.bits 0b0101]
  | .prefixCB op2 => [0xCB, op2]
  | .ldhCA => [0xE2]
  | .ldhImm8A off => [0xE0, off]
  | .ldImm16A addr => [0xEA, loByte addr, hiByte addr]
  | .ldhAC => [0xF2]
  | .ldhAImm8 off => [0xF0, off]
  | .ldAImm16 addr => [0xFA, loByte addr, hiByte addr]
  | .addSpImm8 e => [0xE8, e]
  | .ldHlSpImm8 e => [0xF8, e]
  | .ldSpHl => [0xF9]
  | .di => [0xF3]
  | .ei => [0xFB]
  | .invalidD3 => [0xD3]
  | .invalidDB => [0xDB]
  | .invalidDD => [0xDD]
  | .invalidE3 => [0xE3]
  | .invalidE4 => [0xE4]
  | .invalidEB => [0xEB]
  | .invalidEC => [0xEC]
  | .invalidED => [0xED]
  | .invalidF4 => [0xF4]
  | .invalidFC => [0xFC]
  | .invalidFD => [0xFD]
  | .rlcR8 o => [0xCB, opXYZ 0 0 o.bits]
  | .rrcR8 o => [0xCB, opXYZ 0 1 o.bits]
  | .rlR8 o => [0xCB, opXYZ 0 2 o.bits]
  | .rrR8 o => [0xCB, opXYZ 0 3 o.bits]
  | .slaR8 o => [0xCB, opXYZ 0 4 o.bits]
  | .sraR8 o => [0xCB, opXYZ 0 5 o.bits]
  | .swapR8 o => [0xCB, opXYZ 0 6 o.bits]
  | .srlR8 o => [0xCB, opXYZ 0 7 o.bits]
  | .bitB3R8 b o => [0xCB, opXYZ 1 b o.bits]
  | .resB3R8 b o => [0xCB, opXYZ 2 b o.bits]
  | .setB3R8 b o => [0xCB, opXYZ 3 b o.bits]

/-! ## The table's numbering of an instruction's bits -/

/-- The first three bytes, in address order, of the instruction whose bits are `w` of `nbits` bits, as
spec/opcode_table.json numbers them: the first byte is bits 7 to 0. The rows of 16 bits are the exception (R106: "they
apply to the first byte as the high byte and the second byte as the low byte"): they are the rows of the $CB table, so a
16-bit `w` with 0xCB in bits 15 to 8 has that byte first (log entry 20). Bits above `nbits` are 0. -/
def tableBytes (nbits w : Nat) : Byte × Byte × Byte :=
  let v := w % 2 ^ nbits
  let b0 := BitVec.ofNat 8 v
  let b1 := BitVec.ofNat 8 (v / 256)
  if nbits = 16 ∧ b1 = 0xCB then (b1, b0, 0) else (b0, b1, BitVec.ofNat 8 (v / 65536))

/-- The instruction the decoder reads from an instruction whose bits are `w`. -/
def decodeTableWord (nbits w : Nat) : Option Instr :=
  match decodeBytes [(tableBytes nbits w).1, (tableBytes nbits w).2.1, (tableBytes nbits w).2.2] with
  | .ok (i, _) => some i
  | .error _ => none

end Sys2Proof
end

