-- ==== Sys2Proof/Machine/Ops.lean ====
section
/-! DEFINITION. The named operations over memory, the stack, the interrupt registers and the control state, and the one
trap entry of this hardware, interrupt dispatch, with the return from it. -/
namespace Sys2Proof.Machine

/-! ## Plain memory as a sorted list -/

/-- The value listed at an address. -/
def Memory.find : Memory → Nat → Option Byte
  | [], _ => none
  | (k, v) :: rest, n => if k = n then some v else Memory.find rest n

/-- List a value at an address, keeping the addresses strictly rising. -/
def Memory.insert : Memory → Nat → Byte → Memory
  | [], n, v => [(n, v)]
  | (k, u) :: rest, n, v =>
    if n < k then (n, v) :: (k, u) :: rest
    else if n = k then (n, v) :: rest
    else (k, u) :: Memory.insert rest n v

/-- What a byte of plain memory reads as (R58): the value written last, or its launch content, a free value, if nothing
has written it (R41, D19; log entry 4). -/
def Memory.read (m : Memory) (addr : Word) : Byte :=
  (m.find addr.toNat).getD (Config.launchByte addr)

/-- Write a byte of plain memory (R58). -/
def Memory.write (m : Memory) (addr : Word) (v : Byte) : Memory :=
  m.insert addr.toNat v

/-- Every address of the list is an address of the 64 KiB space above `low` and lies below the next one's. -/
def Memory.risingFrom : Nat → Memory → Bool
  | _, [] => true
  | low, (k, _) :: rest =>
    decide (low ≤ k) && decide (k < 65536) && Memory.risingFrom (k + 1) rest

/-- The canonical form of memory: addresses strictly rising, inside the address space. -/
def Memory.wf (m : Memory) : Bool := Memory.risingFrom 0 m

/-- Memory in its canonical form, with the two interrupt registers' addresses not listed: those are registers (R52, R53). -/
def State.memOk (s : State) : Bool :=
  s.mem.wf && (s.mem.find s.params.ieAddr.toNat).isNone && (s.mem.find s.params.ifAddr.toNat).isNone

/-! ## The bus (20_memory.md R50 to R58) -/

/-- Who answers for an address. -/
inductive Place where
  /-- The register IE (R34). -/
  | ieReg
  /-- The register IF (R35). -/
  | ifReg
  /-- Platform, in its own way (R56, R57). -/
  | platform
  /-- Plain memory (R58). -/
  | plain
deriving DecidableEq, Repr

/-- Whether a range holds an address. -/
def Region.contains (r : Region) (addr : Word) : Bool :=
  decide (r.lo.toNat ≤ addr.toNat) && decide (addr.toNat ≤ r.hi.toNat)

/-- Who answers for an address in a state (R52, R53). -/
def State.place (s : State) (addr : Word) : Place :=
  if addr = s.params.ieAddr then .ieReg
  else if addr = s.params.ifAddr then .ifReg
  else if s.plat.owned.any (fun r => r.contains addr) then .platform
  else .plain

/-- What bits 7 to 5 read as when they store `kept` (R36, R37, D16). -/
def UnusedBits.read (u : UnusedBits) (kept : BitVec 3) : BitVec 3 := (kept &&& u.stored) ||| (u.value &&& ~~~u.stored)

/-- What bits 7 to 5 store after a write, having stored `kept` before. -/
def UnusedBits.write (u : UnusedBits) (kept written : BitVec 3) : BitVec 3 :=
  (written &&& u.stored) ||| (kept &&& ~~~u.stored)

/-- IE as a read gives it (R37). -/
def State.ieRead (s : State) : Byte := s.params.ieUnused.read (s.ie.extractLsb' 5 3) ++ s.ie.extractLsb' 0 5

/-- IE after a write (R37, R53). -/
def State.ieWritten (s : State) (v : Byte) : Byte :=
  s.params.ieUnused.write (s.ie.extractLsb' 5 3) (v.extractLsb' 5 3) ++ v.extractLsb' 0 5

/-- IF as a read gives it (R36). -/
def State.ifRead (s : State) : Byte := s.params.ifUnused.read s.ifUpper ++ s.iflag

/-- Bits 7 to 5 of IF after a write (R36, R53). -/
def State.ifUpperWritten (s : State) (v : Byte) : BitVec 3 := s.params.ifUnused.write s.ifUpper (v.extractLsb' 5 3)

/-- Platform takes note of an event. -/
def Platform.note (p : Platform) (ev : BusEvent) : Platform := { p with history := ev :: p.history }

/-- `MemRead(addr, 1)` (R52): the byte, and the state after the read, in which only Platform can have changed. -/
def memRead (s : State) (addr : Word) : Byte × State :=
  (match s.place addr with
    | .ieReg => s.ieRead
    | .ifReg => s.ifRead
    | .platform => Config.busRead s.plat.history addr
    | .plain => s.mem.read addr,
   { s with
     plat := match s.place addr with
       | .platform => s.plat.note (.read addr)
       | _ => s.plat })

/-- `MemWrite(addr, 1, v)` (R53). -/
def memWrite (s : State) (addr : Word) (v : Byte) : State :=
  { s with
    ie := match s.place addr with
      | .ieReg => s.ieWritten v
      | _ => s.ie
    iflag := match s.place addr with
      | .ifReg => v.extractLsb' 0 5
      | _ => s.iflag
    ifUpper := match s.place addr with
      | .ifReg => s.ifUpperWritten v
      | _ => s.ifUpper
    mem := match s.place addr with
      | .plain => s.mem.write addr v
      | _ => s.mem
    plat := match s.place addr with
      | .platform => s.plat.note (.write addr v)
      | _ => s.plat }

/-- The byte an address holds, read without a bus access: none where Platform answers. Statements say with it what an
instruction leaves unchanged. -/
def State.byteAt (s : State) (addr : Word) : Option Byte :=
  match s.place addr with
  | .ieReg => some s.ieRead
  | .ifReg => some s.ifRead
  | .platform => none
  | .plain => some (s.mem.read addr)

/-- `MemWrite(addr, 2, v)` (R54): low byte at `addr`, then high byte at `addr + 1`. -/
def memWrite16 (s : State) (addr v : Word) : State :=
  memWrite (memWrite s addr (loByte v)) (addr + 1) (hiByte v)

/-! ## The stack (R60, R61) -/

/-- `Push16(v)` (R60): the high byte first, at SP - 1, then the low byte, at SP - 2. No access reads SP, so its two
decrements are written as one. -/
def push16 (s : State) (v : Word) : State :=
  { memWrite (memWrite s (s.sp - 1) (hiByte v)) (s.sp - 2) (loByte v) with sp := s.sp - 2 }

/-- `Pop16()` (R61): the low byte first, at SP, then the high byte, at SP + 1. -/
def pop16 (s : State) : Word × State :=
  let lo := memRead s s.sp
  let hi := memRead lo.2 (s.sp + 1)
  (word hi.1 lo.1, { hi.2 with sp := s.sp + 2 })

/-! ## Interrupt requests (R226 to R230) -/

/-- `pending = IE and IF and 0x1F` (R228). -/
def State.pending (s : State) : BitVec 5 := s.ie.extractLsb' 0 5 &&& s.iflag

/-- Whether some interrupt is both requested and enabled. -/
def State.hasPending (s : State) : Bool := s.pending != 0

/-- The least `i` in 0..4 whose bit is set (R230, R232). -/
def leastSetBit (p : BitVec 5) : Nat :=
  if p.getLsbD 0 then 0
  else if p.getLsbD 1 then 1
  else if p.getLsbD 2 then 2
  else if p.getLsbD 3 then 3
  else 4

/-- The vector of interrupt `n`: 0x0040 + 8*n (R226). -/
def vector (n : Nat) : Word := BitVec.ofNat 16 (0x40 + 8 * n)

/-- IF with bit `n` cleared (R232). -/
def clearRequest (iflag : BitVec 5) (n : Nat) : BitVec 5 := iflag &&& ~~~(BitVec.ofNat 5 (2 ^ n))

/-- Whether an address is an interrupt register's (R232). -/
def State.isInterruptRegister (s : State) (addr : Word) : Bool :=
  decide (addr = s.params.ieAddr) || decide (addr = s.params.ifAddr)

/-- `Dispatch()` (R232), the only trap entry of this hardware: IME and `ei_pending` cleared, the request of the chosen
interrupt cleared, PC pushed, PC at the vector. A push that would land on IE or IF has no meaning (U6). -/
def dispatchInterrupt (s : State) : Result :=
  if s.isInterruptRegister (s.sp - 1) || s.isInterruptRegister (s.sp - 2) then
    .refused .dispatchPushHitsInterruptRegister
  else
    let n := leastSetBit s.pending
    let s1 := push16 { s with ime := false, eiPending := false, iflag := clearRequest s.iflag n } s.pc
    .next { s1 with pc := vector n }

/-- The return from an interrupt handler (R171, R234): PC from the stack, IME set at once, `ei_pending` cleared. -/
def returnFromInterrupt (s : State) : State :=
  { (pop16 s).2 with pc := (pop16 s).1, ime := true, eiPending := false }

/-- The EI delay (R81, R224): at the end of an instruction before which `ei_pending` was 1, IME is set if `ei_pending` is
still 1. -/
def enableAfter (eiPendingBefore : Bool) (s : State) : State :=
  if eiPendingBefore && s.eiPending then { s with ime := true, eiPending := false } else s

/-! ## Control transfers and the hard lock -/

/-- `PC <- (PCnext + sext_16(e)) mod 2^16` (R130). -/
def jumpRelative (s : State) (e : Byte) : State := { s with pc := s.pc + sext16 e }

/-- `Push16(PCnext) ; PC <- target` (R176, R177). -/
def callTo (s : State) (target : Word) : State := { push16 s s.pc with pc := target }

/-- `PC <- Pop16()` (R170). -/
def returnFromCall (s : State) : State :=
  { (pop16 s).2 with pc := (pop16 s).1 }

/-- `HardLock()` (R195, R221). -/
def hardLock (s : State) : State := { s with mode := .locked }

/-! ## `Stopped` (R132, R238) and its parameter `STOP_SEMANTICS` -/

/-- What an account of `stop` is asked about. -/
def State.stopSituation (s : State) (pad : Byte) : StopSituation :=
  ⟨pad, s.pending, s.ime, s.eiPending, s.plat.joypadWake⟩

/-- What the owner's account makes of a `stop`, where it replaces the default. -/
def State.stopAccount (s : State) (pad : Byte) : Option StopEffect := s.params.stop.entry.lookup (s.stopSituation pad)

/-- The effect of a `stop` that an account gives. -/
def applyStop (s : State) (e : StopEffect) : State :=
  { s with mode := e.mode, pc := if e.rereadsPad then s.pc - 1 else s.pc }

/-- What an account is asked about a stopped core. -/
def State.wakeSituation (s : State) : WakeSituation := ⟨s.plat.joypadWake, s.ie, s.iflag, s.ime⟩

/-- Whether a stopped core leaves `Stopped` at this step: by default when JoypadWake is present (R238). -/
def State.stopWakes (s : State) : Bool := (s.params.stop.wake.lookup s.wakeSituation).getD s.plat.joypadWake

end Sys2Proof.Machine
end

