-- ==== Sys2Proof/Machine/Operands.lean ====
section
/-! DEFINITION. The operand forms: register pairs (10_state.md R23), the byte of F (R25, R26), the placeholder tables
(30_encoding.md R84 to R91). -/
namespace Sys2Proof.Machine

/-! ## The byte of F (R25, R26) -/

/-- F as a byte: Z N H C in bits 7 to 4, bits 3 to 0 always 0. -/
def Flags.toByte (f : Flags) : Byte :=
  BitVec.ofBool f.z ++ BitVec.ofBool f.n ++ BitVec.ofBool f.h ++ BitVec.ofBool f.c ++ (0 : BitVec 4)

/-- `F <- v & 0xF0`: bits 3 to 0 are discarded (R26, R181). -/
def Flags.ofByte (v : Byte) : Flags :=
  ⟨v.getLsbD 7, v.getLsbD 6, v.getLsbD 5, v.getLsbD 4⟩

/-! ## Register pairs (R12, R23) -/

/-- AF (R23). -/
def State.af (s : State) : Word := word s.a s.f.toByte

/-- BC (R23). -/
def State.bc (s : State) : Word := word s.b s.c

/-- DE (R23). -/
def State.de (s : State) : Word := word s.d s.e

/-- HL (R23). -/
def State.hl (s : State) : Word := word s.h s.l

/-- `AF <- v` (R12, R26). -/
def State.setAF (s : State) (v : Word) : State := { s with a := hiByte v, f := Flags.ofByte (loByte v) }

/-- `BC <- v` (R12). -/
def State.setBC (s : State) (v : Word) : State := { s with b := hiByte v, c := loByte v }

/-- `DE <- v` (R12). -/
def State.setDE (s : State) (v : Word) : State := { s with d := hiByte v, e := loByte v }

/-- `HL <- v` (R12). -/
def State.setHL (s : State) (v : Word) : State := { s with h := hiByte v, l := loByte v }

/-! ## `r8` (R84) -/

/-- `r8[i]`: the operand's value and the state after reading it; for `[hl]` this is `MemRead(HL, 1)`. -/
def readR8 (s : State) : R8 → Byte × State
  | .b => (s.b, s)
  | .c => (s.c, s)
  | .d => (s.d, s)
  | .e => (s.e, s)
  | .h => (s.h, s)
  | .l => (s.l, s)
  | .hlInd => memRead s s.hl
  | .a => (s.a, s)

/-- `r8[i] <- v`; for `[hl]` this is `MemWrite(HL, 1, v)`. -/
def writeR8 (s : State) (o : R8) (v : Byte) : State :=
  match o with
  | .b => { s with b := v }
  | .c => { s with c := v }
  | .d => { s with d := v }
  | .e => { s with e := v }
  | .h => { s with h := v }
  | .l => { s with l := v }
  | .hlInd => memWrite s s.hl v
  | .a => { s with a := v }

/-! ## `r16` (R85) -/

/-- `r16[i]`. -/
def readR16 (s : State) : R16 → Word
  | .bc => s.bc
  | .de => s.de
  | .hl => s.hl
  | .sp => s.sp

/-- `r16[i] <- v`. -/
def writeR16 (s : State) (r : R16) (v : Word) : State :=
  match r with
  | .bc => s.setBC v
  | .de => s.setDE v
  | .hl => s.setHL v
  | .sp => { s with sp := v }

/-! ## `r16stk` (R86) -/

/-- `r16stk[i]`. -/
def readR16Stk (s : State) : R16Stk → Word
  | .bc => s.bc
  | .de => s.de
  | .hl => s.hl
  | .af => s.af

/-- `r16stk[i] <- v`. -/
def writeR16Stk (s : State) (r : R16Stk) (v : Word) : State :=
  match r with
  | .bc => s.setBC v
  | .de => s.setDE v
  | .hl => s.setHL v
  | .af => s.setAF v

/-! ## `r16mem` (R87) -/

/-- The address of an `r16mem` operand: the register's value. -/
def addrR16Mem (s : State) : R16Mem → Word
  | .bc => s.bc
  | .de => s.de
  | .hli => s.hl
  | .hld => s.hl

/-- The change of HL after the access: `hl+` increments it, `hl-` decrements it. -/
def postModify (s : State) : R16Mem → State
  | .bc => s
  | .de => s
  | .hli => s.setHL (s.hl + 1)
  | .hld => s.setHL (s.hl - 1)

/-! ## `cond` and the high page -/

/-- `cond(c)` (R88). -/
def condHolds (f : Flags) : Cond → Bool
  | .nz => !f.z
  | .z => f.z
  | .nc => !f.c
  | .c => f.c

/-- `HIGH_BASE + offset` (R91, R184). -/
def highPage (s : State) (off : Byte) : Word := s.params.highBase + zext16 off

/-! ## A read, a change and the write back (R62, R200) -/

/-- Read an `r8` operand, write the changed value back to the same place, and set the flags. -/
def modifyR8 (s : State) (o : R8) (change : Byte → Byte × Flags) : State :=
  let r := readR8 s o
  { writeR8 r.2 o (change r.1).1 with f := (change r.1).2 }

/-- `A <- MemRead(addr, 1)` (R114, R187, R188, R189). -/
def loadA (s : State) (addr : Word) : State :=
  { (memRead s addr).2 with a := (memRead s addr).1 }

end Sys2Proof.Machine
end

