-- ==== Sys2Proof/Machine/Block0.lean ====
section
/-! DEFINITION. Block 0 (40_block0.md R110 to R132). Each meaning starts after the instruction's bytes have been fetched,
so that the state's PC is `PCnext` (R13, R110). -/
namespace Sys2Proof.Machine

/-- R111. -/
def execNop (s : State) : Result := .next s

/-- R112. -/
def execLdR16Imm16 (r : R16) (imm : Word) (s : State) : Result := .next (writeR16 s r imm)

/-- R113: the store, then the change of HL. -/
def execLdR16MemA (m : R16Mem) (s : State) : Result := .next (postModify (memWrite s (addrR16Mem s m) s.a) m)

/-- R114: the load, then the change of HL. -/
def execLdAR16Mem (m : R16Mem) (s : State) : Result := .next (postModify (loadA s (addrR16Mem s m)) m)

/-- R115. -/
def execLdImm16Sp (addr : Word) (s : State) : Result := .next (memWrite16 s addr s.sp)

/-- R116. -/
def execIncR16 (r : R16) (s : State) : Result := .next (writeR16 s r (readR16 s r + 1))

/-- R117. -/
def execDecR16 (r : R16) (s : State) : Result := .next (writeR16 s r (readR16 s r - 1))

/-- R118. -/
def execAddHlR16 (r : R16) (s : State) : Result :=
  let out := add16 s.f s.hl (readR16 s r)
  .next { s.setHL out.1 with f := out.2 }

/-- R119. -/
def execIncR8 (o : R8) (s : State) : Result := .next (modifyR8 s o (inc8 s.f))

/-- R120. -/
def execDecR8 (o : R8) (s : State) : Result := .next (modifyR8 s o (dec8 s.f))

/-- R121. -/
def execLdR8Imm8 (o : R8) (imm : Byte) (s : State) : Result := .next (writeR8 s o imm)

/-- A and F after one of R122 to R129. -/
def setAAndF (s : State) (out : Byte × Flags) : State := { s with a := out.1, f := out.2 }

/-- R122. -/
def execRlca (s : State) : Result := .next (setAAndF s (rotateAFlags (rotateLeft s.a)))

/-- R123. -/
def execRrca (s : State) : Result := .next (setAAndF s (rotateAFlags (rotateRight s.a)))

/-- R124. -/
def execRla (s : State) : Result := .next (setAAndF s (rotateAFlags (rotateLeftCarry s.f.c s.a)))

/-- R125. -/
def execRra (s : State) : Result := .next (setAAndF s (rotateAFlags (rotateRightCarry s.f.c s.a)))

/-- R126. -/
def execDaa (s : State) : Result := .next (setAAndF s (daaResult s.f s.a))

/-- R127. -/
def execCpl (s : State) : Result := .next (setAAndF s (s.a ^^^ 0xFF, { s.f with n := true, h := true }))

/-- R128. -/
def execScf (s : State) : Result := .next { s with f := { s.f with n := false, h := false, c := true } }

/-- R129. -/
def execCcf (s : State) : Result := .next { s with f := { s.f with n := false, h := false, c := !s.f.c } }

/-- R130. -/
def execJrImm8 (e : Byte) (s : State) : Result := .next (jumpRelative s e)

/-- R131. -/
def execJrCondImm8 (cc : Cond) (e : Byte) (s : State) : Result :=
  .next (if condHolds s.f cc then jumpRelative s e else s)

/-- R132: what the owner's account says (`STOP_SEMANTICS`, R7), and by default `mode <- Stopped`. The default gives no
meaning to a second byte other than 0x00 (U2), nor to a `stop` whose wake condition or an enabled request already holds
(U3). Log entry 15. -/
def execStop (pad : Byte) (s : State) : Result :=
  match s.stopAccount pad with
  | some e => .next (applyStop s e)
  | none =>
    if pad ≠ 0x00 then .refused .stopSecondByteNotZero
    else if s.hasPending || s.plat.joypadWake then .refused .stopWakeConditionHolds
    else .next { s with mode := .stopped }

end Sys2Proof.Machine
end

