-- ==== Sys2Proof/Machine/Block1.lean ====
section
/-! DEFINITION. Block 1 (41_block1_ld_r8_r8_halt.md R140 to R142). -/
namespace Sys2Proof.Machine

/-- R141: the source is read before the destination is written; the address of `[hl]` is formed from the old HL. -/
def execLdR8R8 (dst src : R8) (s : State) : Result :=
  .next (writeR8 (readR8 s src).2 dst (readR8 s src).1)

/-- R142: the HALT bug when IME = 0 and a request is pending, otherwise `mode <- Halted`. The spec gives no meaning to
`halt` with `ei_pending` = 1 and a request pending (U4, D14). Log entry 16. -/
def execHalt (s : State) : Result :=
  if s.eiPending && s.hasPending then .refused .haltAfterEiWithRequest
  else if !s.ime && s.hasPending then .next { s with haltBug := true }
  else .next { s with mode := .halted }

end Sys2Proof.Machine
end

