-- ==== Sys2Proof/Machine/Block2.lean ====
section
/-! DEFINITION. Block 2 (42_block2_alu8.md R145 to R153): the eight operations on A with an `r8` operand. -/
namespace Sys2Proof.Machine

/-- The common part (R145): the operand is read, then A and F are written. -/
def aluR8 (s : State) (o : R8) (op : Byte → Byte → Byte × Flags) : State :=
  let r := readR8 s o
  { r.2 with a := (op s.a r.1).1, f := (op s.a r.1).2 }

/-- R146. -/
def execAddAR8 (o : R8) (s : State) : Result := .next (aluR8 s o (fun a v => add8 a v false))

/-- R147. -/
def execAdcAR8 (o : R8) (s : State) : Result := .next (aluR8 s o (fun a v => add8 a v s.f.c))

/-- R148. -/
def execSubAR8 (o : R8) (s : State) : Result := .next (aluR8 s o (fun a v => sub8 a v false))

/-- R149. -/
def execSbcAR8 (o : R8) (s : State) : Result := .next (aluR8 s o (fun a v => sub8 a v s.f.c))

/-- R150. -/
def execAndAR8 (o : R8) (s : State) : Result := .next (aluR8 s o and8)

/-- R151. -/
def execXorAR8 (o : R8) (s : State) : Result := .next (aluR8 s o xor8)

/-- R152. -/
def execOrAR8 (o : R8) (s : State) : Result := .next (aluR8 s o or8)

/-- R153: A is not written. -/
def execCpAR8 (o : R8) (s : State) : Result :=
  .next { (readR8 s o).2 with f := cp8 s.a (readR8 s o).1 }

end Sys2Proof.Machine
end

