-- ==== Sys2Proof/Machine/Block3Control.lean ====
section
/-! DEFINITION. Block 3, part 1 (43_block3_alu_imm_and_control.md R160 to R177): arithmetic with an immediate, returns,
jumps, calls, rst. -/
namespace Sys2Proof.Machine

/-- The common part of R161 to R167: A and F from A and the immediate byte. -/
def aluImm8 (s : State) (imm : Byte) (op : Byte → Byte → Byte × Flags) : State :=
  { s with a := (op s.a imm).1, f := (op s.a imm).2 }

/-- R161. -/
def execAddAImm8 (imm : Byte) (s : State) : Result := .next (aluImm8 s imm (fun a v => add8 a v false))

/-- R162. -/
def execAdcAImm8 (imm : Byte) (s : State) : Result := .next (aluImm8 s imm (fun a v => add8 a v s.f.c))

/-- R163. -/
def execSubAImm8 (imm : Byte) (s : State) : Result := .next (aluImm8 s imm (fun a v => sub8 a v false))

/-- R164. -/
def execSbcAImm8 (imm : Byte) (s : State) : Result := .next (aluImm8 s imm (fun a v => sub8 a v s.f.c))

/-- R165. -/
def execAndAImm8 (imm : Byte) (s : State) : Result := .next (aluImm8 s imm and8)

/-- R166. -/
def execXorAImm8 (imm : Byte) (s : State) : Result := .next (aluImm8 s imm xor8)

/-- R167. -/
def execOrAImm8 (imm : Byte) (s : State) : Result := .next (aluImm8 s imm or8)

/-- R168: A is not written. -/
def execCpAImm8 (imm : Byte) (s : State) : Result := .next { s with f := cp8 s.a imm }

/-- R169: nothing is read from the stack when the condition fails. -/
def execRetCond (cc : Cond) (s : State) : Result := .next (if condHolds s.f cc then returnFromCall s else s)

/-- R170. -/
def execRet (s : State) : Result := .next (returnFromCall s)

/-- R171, R234. -/
def execReti (s : State) : Result := .next (returnFromInterrupt s)

/-- R172. -/
def execJpCondImm16 (cc : Cond) (addr : Word) (s : State) : Result :=
  .next (if condHolds s.f cc then { s with pc := addr } else s)

/-- R173. -/
def execJpImm16 (addr : Word) (s : State) : Result := .next { s with pc := addr }

/-- R174: no memory is read. -/
def execJpHl (s : State) : Result := .next { s with pc := s.hl }

/-- R175: nothing is written when the condition fails. -/
def execCallCondImm16 (cc : Cond) (addr : Word) (s : State) : Result :=
  .next (if condHolds s.f cc then callTo s addr else s)

/-- R176. -/
def execCallImm16 (addr : Word) (s : State) : Result := .next (callTo s addr)

/-- The target of `rst`: `tgt3 * 8` (R90, R177). -/
def rstTarget (tgt : BitVec 3) : Word := BitVec.ofNat 16 (8 * tgt.toNat)

/-- R177. -/
def execRstTgt3 (tgt : BitVec 3) (s : State) : Result := .next (callTo s (rstTarget tgt))

end Sys2Proof.Machine
end

