-- ==== Sys2Proof/Machine/Block3Misc.lean ====
section
/-! DEFINITION. Block 3, part 2 (44_block3_stack_ldh_sp_misc.md R180 to R195): pop, push, the loads of A through the high
page and absolute addresses, SP arithmetic, di, ei, the invalid opcodes. The prefix byte (R183) is with the $CB table, in
CbPage.lean. -/
namespace Sys2Proof.Machine

/-- R181. -/
def execPopR16Stk (r : R16Stk) (s : State) : Result :=
  .next (writeR16Stk (pop16 s).2 r (pop16 s).1)

/-- R182. -/
def execPushR16Stk (r : R16Stk) (s : State) : Result := .next (push16 s (readR16Stk s r))

/-- R184. -/
def execLdhCA (s : State) : Result := .next (memWrite s (highPage s s.c) s.a)

/-- R185. -/
def execLdhImm8A (off : Byte) (s : State) : Result := .next (memWrite s (highPage s off) s.a)

/-- R186. -/
def execLdImm16A (addr : Word) (s : State) : Result := .next (memWrite s addr s.a)

/-- R187. -/
def execLdhAC (s : State) : Result := .next (loadA s (highPage s s.c))

/-- R188. -/
def execLdhAImm8 (off : Byte) (s : State) : Result := .next (loadA s (highPage s off))

/-- R189. -/
def execLdAImm16 (addr : Word) (s : State) : Result := .next (loadA s addr)

/-- R190. -/
def execAddSpImm8 (e : Byte) (s : State) : Result :=
  .next { s with sp := (addSp s.sp e).1, f := (addSp s.sp e).2 }

/-- R191: SP is unchanged. -/
def execLdHlSpImm8 (e : Byte) (s : State) : Result :=
  .next { s.setHL (addSp s.sp e).1 with f := (addSp s.sp e).2 }

/-- R192. -/
def execLdSpHl (s : State) : Result := .next { s with sp := s.hl }

/-- R193, R225. -/
def execDi (s : State) : Result := .next { s with ime := false, eiPending := false }

/-- R194: IME itself is written at the end of the instruction that follows (R224). -/
def execEi (s : State) : Result := .next { s with eiPending := true }

/-- R195, opcode 0xD3. -/
def execInvalidD3 (s : State) : Result := .next (hardLock s)

/-- R195, opcode 0xDB. -/
def execInvalidDB (s : State) : Result := .next (hardLock s)

/-- R195, opcode 0xDD. -/
def execInvalidDD (s : State) : Result := .next (hardLock s)

/-- R195, opcode 0xE3. -/
def execInvalidE3 (s : State) : Result := .next (hardLock s)

/-- R195, opcode 0xE4. -/
def execInvalidE4 (s : State) : Result := .next (hardLock s)

/-- R195, opcode 0xEB. -/
def execInvalidEB (s : State) : Result := .next (hardLock s)

/-- R195, opcode 0xEC. -/
def execInvalidEC (s : State) : Result := .next (hardLock s)

/-- R195, opcode 0xED. -/
def execInvalidED (s : State) : Result := .next (hardLock s)

/-- R195, opcode 0xF4. -/
def execInvalidF4 (s : State) : Result := .next (hardLock s)

/-- R195, opcode 0xFC. -/
def execInvalidFC (s : State) : Result := .next (hardLock s)

/-- R195, opcode 0xFD. -/
def execInvalidFD (s : State) : Result := .next (hardLock s)

end Sys2Proof.Machine
end

