-- ==== Sys2Proof/Machine/CbPage.lean ====
section
/-! DEFINITION. The $CB page (45_cb_prefix.md R200 to R211) and the prefix byte itself
(44_block3_stack_ldh_sp_misc.md R183). -/
namespace Sys2Proof.Machine

/-- R201. -/
def execRlcR8 (o : R8) (s : State) : Result := .next (modifyR8 s o (fun v => shiftFlags (rotateLeft v)))

/-- R202. -/
def execRrcR8 (o : R8) (s : State) : Result := .next (modifyR8 s o (fun v => shiftFlags (rotateRight v)))

/-- R203. -/
def execRlR8 (o : R8) (s : State) : Result := .next (modifyR8 s o (fun v => shiftFlags (rotateLeftCarry s.f.c v)))

/-- R204. -/
def execRrR8 (o : R8) (s : State) : Result := .next (modifyR8 s o (fun v => shiftFlags (rotateRightCarry s.f.c v)))

/-- R205. -/
def execSlaR8 (o : R8) (s : State) : Result := .next (modifyR8 s o (fun v => shiftFlags (shiftLeftArith v)))

/-- R206. -/
def execSraR8 (o : R8) (s : State) : Result := .next (modifyR8 s o (fun v => shiftFlags (shiftRightArith v)))

/-- R207. -/
def execSwapR8 (o : R8) (s : State) : Result := .next (modifyR8 s o (fun v => shiftFlags (swapNibbles v)))

/-- R208. -/
def execSrlR8 (o : R8) (s : State) : Result := .next (modifyR8 s o (fun v => shiftFlags (shiftRightLogic v)))

/-- R209: nothing is written but the flags. -/
def execBitB3R8 (b : BitVec 3) (o : R8) (s : State) : Result :=
  .next { (readR8 s o).2 with f := bitFlags s.f b (readR8 s o).1 }

/-- R210. -/
def execResB3R8 (b : BitVec 3) (o : R8) (s : State) : Result :=
  .next (writeR8 (readR8 s o).2 o ((readR8 s o).1 &&& ~~~(bitMask b)))

/-- R211. -/
def execSetB3R8 (b : BitVec 3) (o : R8) (s : State) : Result :=
  .next (writeR8 (readR8 s o).2 o ((readR8 s o).1 ||| bitMask b))

/-- R183: the operation byte is decoded and executed by the $CB table (R97); the prefix itself changes no state. -/
def execPrefixCB (op2 : Byte) (s : State) : Result :=
  let o := R8.ofBits (bits20 op2)
  match (bits76 op2).toNat with
  | 0 =>
    match (bits53 op2).toNat with
    | 0 => execRlcR8 o s
    | 1 => execRrcR8 o s
    | 2 => execRlR8 o s
    | 3 => execRrR8 o s
    | 4 => execSlaR8 o s
    | 5 => execSraR8 o s
    | 6 => execSwapR8 o s
    | _ => execSrlR8 o s
  | 1 => execBitB3R8 (bits53 op2) o s
  | 2 => execResB3R8 (bits53 op2) o s
  | _ => execSetB3R8 (bits53 op2) o s

end Sys2Proof.Machine
end

