-- ==== Sys2Proof/Machine/Dispatch.lean ====
section
/-! DEFINITION. One arm per constructor of Instr. -/
namespace Sys2Proof.Machine

def exec (i : Instr) (s : State) : Host.Outcome State Fault Refusal :=
  match i with
  | .nop => Sys2Proof.Machine.execNop s
  | .ldR16Imm16 r imm => Sys2Proof.Machine.execLdR16Imm16 r imm s
  | .ldR16MemA m => Sys2Proof.Machine.execLdR16MemA m s
  | .ldAR16Mem m => Sys2Proof.Machine.execLdAR16Mem m s
  | .ldImm16Sp addr => Sys2Proof.Machine.execLdImm16Sp addr s
  | .incR16 r => Sys2Proof.Machine.execIncR16 r s
  | .decR16 r => Sys2Proof.Machine.execDecR16 r s
  | .addHlR16 r => Sys2Proof.Machine.execAddHlR16 r s
  | .incR8 o => Sys2Proof.Machine.execIncR8 o s
  | .decR8 o => Sys2Proof.Machine.execDecR8 o s
  | .ldR8Imm8 o imm => Sys2Proof.Machine.execLdR8Imm8 o imm s
  | .rlca => Sys2Proof.Machine.execRlca s
  | .rrca => Sys2Proof.Machine.execRrca s
  | .rla => Sys2Proof.Machine.execRla s
  | .rra => Sys2Proof.Machine.execRra s
  | .daa => Sys2Proof.Machine.execDaa s
  | .cpl => Sys2Proof.Machine.execCpl s
  | .scf => Sys2Proof.Machine.execScf s
  | .ccf => Sys2Proof.Machine.execCcf s
  | .jrImm8 e => Sys2Proof.Machine.execJrImm8 e s
  | .jrCondImm8 cc e => Sys2Proof.Machine.execJrCondImm8 cc e s
  | .stop pad => Sys2Proof.Machine.execStop pad s
  | .halt => Sys2Proof.Machine.execHalt s
  | .ldR8R8 dst src => Sys2Proof.Machine.execLdR8R8 dst src s
  | .addAR8 o => Sys2Proof.Machine.execAddAR8 o s
  | .adcAR8 o => Sys2Proof.Machine.execAdcAR8 o s
  | .subAR8 o => Sys2Proof.Machine.execSubAR8 o s
  | .sbcAR8 o => Sys2Proof.Machine.execSbcAR8 o s
  | .andAR8 o => Sys2Proof.Machine.execAndAR8 o s
  | .xorAR8 o => Sys2Proof.Machine.execXorAR8 o s
  | .orAR8 o => Sys2Proof.Machine.execOrAR8 o s
  | .cpAR8 o => Sys2Proof.Machine.execCpAR8 o s
  | .addAImm8 imm => Sys2Proof.Machine.execAddAImm8 imm s
  | .adcAImm8 imm => Sys2Proof.Machine.execAdcAImm8 imm s
  | .subAImm8 imm => Sys2Proof.Machine.execSubAImm8 imm s
  | .sbcAImm8 imm => Sys2Proof.Machine.execSbcAImm8 imm s
  | .andAImm8 imm => Sys2Proof.Machine.execAndAImm8 imm s
  | .xorAImm8 imm => Sys2Proof.Machine.execXorAImm8 imm s
  | .orAImm8 imm => Sys2Proof.Machine.execOrAImm8 imm s
  | .cpAImm8 imm => Sys2Proof.Machine.execCpAImm8 imm s
  | .retCond cc => Sys2Proof.Machine.execRetCond cc s
  | .ret => Sys2Proof.Machine.execRet s
  | .reti => Sys2Proof.Machine.execReti s
  | .jpCondImm16 cc addr => Sys2Proof.Machine.execJpCondImm16 cc addr s
  | .jpImm16 addr => Sys2Proof.Machine.execJpImm16 addr s
  | .jpHl => Sys2Proof.Machine.execJpHl s
  | .callCondImm16 cc addr => Sys2Proof.Machine.execCallCondImm16 cc addr s
  | .callImm16 addr => Sys2Proof.Machine.execCallImm16 addr s
  | .rstTgt3 tgt => Sys2Proof.Machine.execRstTgt3 tgt s
  | .popR16Stk r => Sys2Proof.Machine.execPopR16Stk r s
  | .pushR16Stk r => Sys2Proof.Machine.execPushR16Stk r s
  | .prefixCB op2 => Sys2Proof.Machine.execPrefixCB op2 s
  | .ldhCA => Sys2Proof.Machine.execLdhCA s
  | .ldhImm8A off => Sys2Proof.Machine.execLdhImm8A off s
  | .ldImm16A addr => Sys2Proof.Machine.execLdImm16A addr s
  | .ldhAC => Sys2Proof.Machine.execLdhAC s
  | .ldhAImm8 off => Sys2Proof.Machine.execLdhAImm8 off s
  | .ldAImm16 addr => Sys2Proof.Machine.execLdAImm16 addr s
  | .addSpImm8 e => Sys2Proof.Machine.execAddSpImm8 e s
  | .ldHlSpImm8 e => Sys2Proof.Machine.execLdHlSpImm8 e s
  | .ldSpHl => Sys2Proof.Machine.execLdSpHl s
  | .di => Sys2Proof.Machine.execDi s
  | .ei => Sys2Proof.Machine.execEi s
  | .invalidD3 => Sys2Proof.Machine.execInvalidD3 s
  | .invalidDB => Sys2Proof.Machine.execInvalidDB s
  | .invalidDD => Sys2Proof.Machine.execInvalidDD s
  | .invalidE3 => Sys2Proof.Machine.execInvalidE3 s
  | .invalidE4 => Sys2Proof.Machine.execInvalidE4 s
  | .invalidEB => Sys2Proof.Machine.execInvalidEB s
  | .invalidEC => Sys2Proof.Machine.execInvalidEC s
  | .invalidED => Sys2Proof.Machine.execInvalidED s
  | .invalidF4 => Sys2Proof.Machine.execInvalidF4 s
  | .invalidFC => Sys2Proof.Machine.execInvalidFC s
  | .invalidFD => Sys2Proof.Machine.execInvalidFD s
  | .rlcR8 o => Sys2Proof.Machine.execRlcR8 o s
  | .rrcR8 o => Sys2Proof.Machine.execRrcR8 o s
  | .rlR8 o => Sys2Proof.Machine.execRlR8 o s
  | .rrR8 o => Sys2Proof.Machine.execRrR8 o s
  | .slaR8 o => Sys2Proof.Machine.execSlaR8 o s
  | .sraR8 o => Sys2Proof.Machine.execSraR8 o s
  | .swapR8 o => Sys2Proof.Machine.execSwapR8 o s
  | .srlR8 o => Sys2Proof.Machine.execSrlR8 o s
  | .bitB3R8 b o => Sys2Proof.Machine.execBitB3R8 b o s
  | .resB3R8 b o => Sys2Proof.Machine.execResB3R8 b o s
  | .setB3R8 b o => Sys2Proof.Machine.execSetB3R8 b o s

end Sys2Proof.Machine
end

