-- ==== Sys2Proof/Machine/Fetch.lean ====
section
/-! DEFINITION. Fetching an instruction (30_encoding.md R81 to R83, R98), and placing one where it will be fetched. -/
namespace Sys2Proof.Machine

/-- `Fetch8()` (R82): the byte at PC; PC advances by one, but for the fetch after a HALT bug, which clears `halt_bug`
instead. -/
def fetch8 (s : State) : Byte × State :=
  let r := memRead s s.pc
  (r.1, if s.haltBug then { r.2 with haltBug := false } else { r.2 with pc := s.pc + 1 })

/-- Fetch one whole instruction (R81): the opcode, then as many bytes as its length (R98) says, in ascending order. -/
def fetchInstr (s : State) : Instr × State :=
  let op := fetch8 s
  match opcodeLength op.1 with
  | 1 => (decode op.1 0 0, op.2)
  | 2 =>
    let b1 := fetch8 op.2
    (decode op.1 b1.1 0, b1.2)
  | _ =>
    let b1 := fetch8 op.2
    let b2 := fetch8 b1.2
    (decode op.1 b1.1 b2.1, b2.2)

/-- A state in which the three bytes at PC are plain memory that holds `b0`, `b1`, `b2`, and nothing keeps the next step
from fetching them: the core runs, no HALT bug is armed, Platform does nothing before the step, and no interrupt is
dispatched instead. Bytes that fall on `IE_ADDR` or `IF_ADDR` go to those registers. -/
def placeAtPc (s : State) (b0 b1 b2 : Byte) : State :=
  let free : State :=
    { s with
      mode := .running
      haltBug := false
      plat := { s.plat with
        inbox := []
        owned := s.plat.owned.filter fun r =>
          !(r.contains s.pc || r.contains (s.pc + 1) || r.contains (s.pc + 2)) } }
  let placed := memWrite (memWrite (memWrite free s.pc b0) (s.pc + 1) b1) (s.pc + 2) b2
  { placed with ime := placed.ime && !placed.hasPending }

end Sys2Proof.Machine
end

