-- ==== Sys2Proof/Machine/Run.lean ====
section
/-! DEFINITION. What happens at a step (60_exceptions.md R222): Platform's action, then the core's part. -/
namespace Sys2Proof.Machine

/-- The requests Platform can raise in a mode: while `Stopped` only bit 4, the joypad's (R229, U23). -/
def allowedRequests (mode : Mode) (requests : BitVec 5) : BitVec 5 :=
  match mode with
  | .stopped => requests &&& 0b10000
  | _ => requests

/-- Platform acts before a step (R9, R222): it sets IF bits and leaves JoypadWake at a level; it writes no CPU register,
IME or mode. Log entry 9. -/
def platformAct (s : State) : State :=
  match s.plat.inbox with
  | [] => s
  | act :: rest =>
    { s with
      iflag := s.iflag ||| allowedRequests s.mode act.requests
      plat := { s.plat.note (.act act) with inbox := rest, joypadWake := act.joypadWake } }

/-- `ExecuteOne()` (R81): one whole instruction, with the EI delay (R224). -/
def executeOne (s : State) : Result :=
  match exec (fetchInstr s).1 (fetchInstr s).2 with
  | .next t => .next (enableAfter s.eiPending t)
  | .fault r => .fault r
  | .refused r => .refused r

/-- The last part of the step (R222): the interrupt wins over the instruction (R230). -/
def dispatchOrExecute (s : State) : Result :=
  if s.ime && s.hasPending then dispatchInterrupt s else executeOne s

/-- The core's part of a step (R222). -/
def cpuStep (s : State) : Result :=
  match s.mode with
  | .locked => .next s
  | .stopped => .next (if s.stopWakes then { s with mode := .running } else s)
  | .halted => if s.hasPending then dispatchOrExecute { s with mode := .running } else .next s
  | .running => dispatchOrExecute s

end Sys2Proof.Machine
end

