-- ==== Sys2Proof/Machine/Step.lean ====
section
/-! DEFINITION. One step of the machine (60_exceptions.md R222), and the placing of an instruction for the host. -/
namespace Sys2Proof.Machine

/-- One step (R222): Platform acts, then the core. -/
def step (s : State) : Host.Outcome State Fault Refusal := cpuStep (platformAct s)

/-- The instruction whose bits are `w` (numbered as spec/opcode_table.json numbers them), stored where `step` fetches its
next instruction. Log entry 21. -/
def State.withFetchWord (s : State) (nbits w : Nat) : State :=
  placeAtPc s (tableBytes nbits w).1 (tableBytes nbits w).2.1 (tableBytes nbits w).2.2

end Sys2Proof.Machine
end

