-- ==== Sys2Proof/Machine/Timing.lean ====
section
/-! DEFINITION. Durations (70_reset_and_hazards.md R275 to R278), for information: no step reads them (R275, D17; log
entry 22). -/
namespace Sys2Proof.Machine

/-- The T-states of a form that is longer with `[hl]` as its operand. -/
def tStatesR8 (o : R8) (reg mem : Nat) : Nat := if o = .hlInd then mem else reg

/-- The T-states of an instruction executed with flags `f` (R277). The eleven invalid opcodes have no duration: the core
locks. -/
def tStates (f : Flags) : Instr → Option Nat
  | .nop => some 4
  | .ldR16Imm16 _ _ => some 12
  | .ldR16MemA _ => some 8
  | .ldAR16Mem _ => some 8
  | .ldImm16Sp _ => some 20
  | .incR16 _ => some 8
  | .decR16 _ => some 8
  | .addHlR16 _ => some 8
  | .incR8 o => some (tStatesR8 o 4 12)
  | .decR8 o => some (tStatesR8 o 4 12)
  | .ldR8Imm8 o _ => some (tStatesR8 o 8 12)
  | .rlca => some 4
  | .rrca => some 4
  | .rla => some 4
  | .rra => some 4
  | .daa => some 4
  | .cpl => some 4
  | .scf => some 4
  | .ccf => some 4
  | .jrImm8 _ => some 12
  | .jrCondImm8 cc _ => some (if condHolds f cc then 12 else 8)
  | .stop _ => some 4
  | .halt => some 4
  | .ldR8R8 dst src => some (if dst = .hlInd ∨ src = .hlInd then 8 else 4)
  | .addAR8 o => some (tStatesR8 o 4 8)
  | .adcAR8 o => some (tStatesR8 o 4 8)
  | .subAR8 o => some (tStatesR8 o 4 8)
  | .sbcAR8 o => some (tStatesR8 o 4 8)
  | .andAR8 o => some (tStatesR8 o 4 8)
  | .xorAR8 o => some (tStatesR8 o 4 8)
  | .orAR8 o => some (tStatesR8 o 4 8)
  | .cpAR8 o => some (tStatesR8 o 4 8)
  | .addAImm8 _ => some 8
  | .adcAImm8 _ => some 8
  | .subAImm8 _ => some 8
  | .sbcAImm8 _ => some 8
  | .andAImm8 _ => some 8
  | .xorAImm8 _ => some 8
  | .orAImm8 _ => some 8
  | .cpAImm8 _ => some 8
  | .retCond cc => some (if condHolds f cc then 20 else 8)
  | .ret => some 16
  | .reti => some 16
  | .jpCondImm16 cc _ => some (if condHolds f cc then 16 else 12)
  | .jpImm16 _ => some 16
  | .jpHl => some 4
  | .callCondImm16 cc _ => some (if condHolds f cc then 24 else 12)
  | .callImm16 _ => some 24
  | .rstTgt3 _ => some 16
  | .popR16Stk _ => some 12
  | .pushR16Stk _ => some 16
  | .prefixCB op2 =>
    some (if bits20 op2 = 6 then (if bits76 op2 = 1 then 12 else 16) else 8)
  | .ldhCA => some 8
  | .ldhImm8A _ => some 12
  | .ldImm16A _ => some 16
  | .ldhAC => some 8
  | .ldhAImm8 _ => some 12
  | .ldAImm16 _ => some 16
  | .addSpImm8 _ => some 16
  | .ldHlSpImm8 _ => some 12
  | .ldSpHl => some 8
  | .di => some 4
  | .ei => some 4
  | .invalidD3 => none
  | .invalidDB => none
  | .invalidDD => none
  | .invalidE3 => none
  | .invalidE4 => none
  | .invalidEB => none
  | .invalidEC => none
  | .invalidED => none
  | .invalidF4 => none
  | .invalidFC => none
  | .invalidFD => none
  | .rlcR8 o => some (tStatesR8 o 8 16)
  | .rrcR8 o => some (tStatesR8 o 8 16)
  | .rlR8 o => some (tStatesR8 o 8 16)
  | .rrR8 o => some (tStatesR8 o 8 16)
  | .slaR8 o => some (tStatesR8 o 8 16)
  | .sraR8 o => some (tStatesR8 o 8 16)
  | .swapR8 o => some (tStatesR8 o 8 16)
  | .srlR8 o => some (tStatesR8 o 8 16)
  | .bitB3R8 _ o => some (tStatesR8 o 8 12)
  | .resB3R8 _ o => some (tStatesR8 o 8 16)
  | .setB3R8 _ o => some (tStatesR8 o 8 16)

/-- The T-states of an interrupt dispatch: 5 machine cycles (R278). -/
def dispatchTStates : Nat := 20

/-- The further T-states of leaving `Halted` (R278). -/
def haltWakeTStates : Nat := 4

end Sys2Proof.Machine
end

