-- ==== Sys2Proof/Safety.lean ====
section
/-! DEFINITION. The terms in which statements speak of runs: the invariant of the state, the end of a run, what an
instruction may change. -/
namespace Sys2Proof.Machine

/-- The HALT bug is armed only in a running core with interrupts disabled and none being enabled (R222, "Invariant"). -/
def State.haltBugOk (s : State) : Prop :=
  s.haltBug = true → s.mode = .running ∧ s.ime = false ∧ s.eiPending = false

/-- The invariant every step keeps: memory in its canonical form (log entry 5), and R222's invariant of `halt_bug`. -/
def State.Inv (s : State) : Prop := s.memOk = true ∧ s.haltBugOk

/-- The constraints of the spec on any launch state (R260, D1). F[3:0] = 0 holds of every `Flags`. -/
def State.isLaunchState (s : State) : Prop :=
  s.eiPending = false ∧ s.haltBug = false ∧ s.mode = .running

/-- Whether a run of at most `n` steps from `s` reaches a state in which `endOfRun` holds (R7, D20: the predicate is the
claim's own choice). -/
def reachesEnd (endOfRun : State → Bool) : Nat → State → Bool
  | 0, s => endOfRun s
  | n + 1, s =>
    endOfRun s ||
      match step s with
      | .next t => reachesEnd endOfRun n t
      | .fault _ => false
      | .refused _ => false

/-- The registers an instruction can name (R21, R23). -/
inductive Reg where
  | a | b | c | d | e | h | l | sp
deriving DecidableEq, Repr

/-- A register's value, an 8-bit one extended with zeros. -/
def State.reg (s : State) : Reg → Word
  | .a => zext16 s.a
  | .b => zext16 s.b
  | .c => zext16 s.c
  | .d => zext16 s.d
  | .e => zext16 s.e
  | .h => zext16 s.h
  | .l => zext16 s.l
  | .sp => s.sp

/-- The register of an `r8` operand; `[hl]` is none (R84). -/
def r8Regs : R8 → List Reg
  | .b => [.b] | .c => [.c] | .d => [.d] | .e => [.e] | .h => [.h] | .l => [.l] | .hlInd => [] | .a => [.a]

/-- The registers of an `r16` operand (R85). -/
def r16Regs : R16 → List Reg
  | .bc => [.b, .c] | .de => [.d, .e] | .hl => [.h, .l] | .sp => [.sp]

/-- The registers of an `r16stk` operand, F apart (R86). -/
def r16StkRegs : R16Stk → List Reg
  | .bc => [.b, .c] | .de => [.d, .e] | .hl => [.h, .l] | .af => [.a]

/-- The registers the access of an `r16mem` operand changes (R87). -/
def r16MemModified : R16Mem → List Reg
  | .bc => [] | .de => [] | .hli => [.h, .l] | .hld => [.h, .l]

/-! ## What each instruction may change

Tables by constructor, in the words of the spec's own lists (R22 to R24, R28, R51). They say what an instruction MAY change;
the statements of each instruction's result say what it does change. -/

/-- `bs` are the bytes of the instruction `i`: the decoder reads `i` from them, whatever follows. -/
def Encodes (bs : List Byte) (i : Instr) : Prop := ∀ rest, decodeBytes (bs ++ rest) = .ok (i, rest)

/-- The operand of an operation byte of the $CB table (R200). -/
def cbOperand (op2 : Byte) : R8 := R8.ofBits (bits20 op2)

/-- Whether an operation byte of the $CB table is a `bit` (R97). -/
def cbIsBit (op2 : Byte) : Bool := bits76 op2 == 1

/-- The registers an instruction may write, F and PC apart: its destination, and SP or HL where the instruction also moves
them. -/
def dests : Instr → List Reg
  | .ldR16Imm16 r _ | .incR16 r | .decR16 r => r16Regs r
  | .ldR16MemA m => r16MemModified m
  | .ldAR16Mem m => .a :: r16MemModified m
  | .addHlR16 _ | .ldHlSpImm8 _ => [.h, .l]
  | .incR8 o | .decR8 o | .ldR8Imm8 o _ | .ldR8R8 o _ => r8Regs o
  | .rlcR8 o | .rrcR8 o | .rlR8 o | .rrR8 o | .slaR8 o | .sraR8 o | .swapR8 o | .srlR8 o => r8Regs o
  | .resB3R8 _ o | .setB3R8 _ o => r8Regs o
  | .prefixCB op2 => if cbIsBit op2 then [] else r8Regs (cbOperand op2)
  | .rlca | .rrca | .rla | .rra | .daa | .cpl => [.a]
  | .addAR8 _ | .adcAR8 _ | .subAR8 _ | .sbcAR8 _ | .andAR8 _ | .xorAR8 _ | .orAR8 _ => [.a]
  | .addAImm8 _ | .adcAImm8 _ | .subAImm8 _ | .sbcAImm8 _ | .andAImm8 _ | .xorAImm8 _ | .orAImm8 _ => [.a]
  | .ldhAC | .ldhAImm8 _ | .ldAImm16 _ => [.a]
  | .popR16Stk r => .sp :: r16StkRegs r
  | .retCond _ | .ret | .reti | .callCondImm16 _ _ | .callImm16 _ | .rstTgt3 _ | .pushR16Stk _ => [.sp]
  | .addSpImm8 _ | .ldSpHl => [.sp]
  | .nop | .ldImm16Sp _ | .scf | .ccf | .jrImm8 _ | .jrCondImm8 _ _ | .stop _ | .halt => []
  | .cpAR8 _ | .cpAImm8 _ | .bitB3R8 _ _ => []
  | .jpCondImm16 _ _ | .jpImm16 _ | .jpHl => []
  | .ldhCA | .ldhImm8A _ | .ldImm16A _ | .di | .ei => []
  | .invalidD3 | .invalidDB | .invalidDD | .invalidE3 | .invalidE4 | .invalidEB => []
  | .invalidEC | .invalidED | .invalidF4 | .invalidFC | .invalidFD => []

/-- The address an `r8` operand reads or writes: HL for `[hl]`, none for a register (R84). -/
def r8Addrs (s : State) : R8 → List Word
  | .hlInd => [s.hl]
  | .a | .b | .c | .d | .e | .h | .l => []

/-- The two addresses a push stores to (R60). -/
def pushAddrs (s : State) : List Word := [s.sp - 1, s.sp - 2]

/-- The addresses an instruction executed in state `s` (after its fetch) may store to (R51, R62). -/
def stores (s : State) : Instr → List Word
  | .ldR16MemA m => [addrR16Mem s m]
  | .ldImm16Sp addr => [addr, addr + 1]
  | .incR8 o | .decR8 o | .ldR8Imm8 o _ | .ldR8R8 o _ => r8Addrs s o
  | .rlcR8 o | .rrcR8 o | .rlR8 o | .rrR8 o | .slaR8 o | .sraR8 o | .swapR8 o | .srlR8 o => r8Addrs s o
  | .resB3R8 _ o | .setB3R8 _ o => r8Addrs s o
  | .prefixCB op2 => if cbIsBit op2 then [] else r8Addrs s (cbOperand op2)
  | .callCondImm16 cc _ => if condHolds s.f cc then pushAddrs s else []
  | .callImm16 _ | .rstTgt3 _ | .pushR16Stk _ => pushAddrs s
  | .ldhCA => [highPage s s.c]
  | .ldhImm8A off => [highPage s off]
  | .ldImm16A addr => [addr]
  | .nop | .ldR16Imm16 _ _ | .ldAR16Mem _ | .incR16 _ | .decR16 _ | .addHlR16 _ => []
  | .rlca | .rrca | .rla | .rra | .daa | .cpl | .scf | .ccf => []
  | .jrImm8 _ | .jrCondImm8 _ _ | .stop _ | .halt => []
  | .addAR8 _ | .adcAR8 _ | .subAR8 _ | .sbcAR8 _ | .andAR8 _ | .xorAR8 _ | .orAR8 _ | .cpAR8 _ => []
  | .addAImm8 _ | .adcAImm8 _ | .subAImm8 _ | .sbcAImm8 _ | .andAImm8 _ | .xorAImm8 _ | .orAImm8 _ | .cpAImm8 _ => []
  | .retCond _ | .ret | .reti | .jpCondImm16 _ _ | .jpImm16 _ | .jpHl | .popR16Stk _ => []
  | .ldhAC | .ldhAImm8 _ | .ldAImm16 _ | .addSpImm8 _ | .ldHlSpImm8 _ | .ldSpHl | .di | .ei => []
  | .bitB3R8 _ _ => []
  | .invalidD3 | .invalidDB | .invalidDD | .invalidE3 | .invalidE4 | .invalidEB => []
  | .invalidEC | .invalidED | .invalidF4 | .invalidFC | .invalidFD => []

/-- The addresses an instruction executed in state `s` (after its fetch) may load from, its own bytes apart (R51, R62). -/
def loads (s : State) : Instr → List Word
  | .ldAR16Mem m => [addrR16Mem s m]
  | .incR8 o | .decR8 o => r8Addrs s o
  | .ldR8R8 _ o => r8Addrs s o
  | .addAR8 o | .adcAR8 o | .subAR8 o | .sbcAR8 o | .andAR8 o | .xorAR8 o | .orAR8 o | .cpAR8 o => r8Addrs s o
  | .rlcR8 o | .rrcR8 o | .rlR8 o | .rrR8 o | .slaR8 o | .sraR8 o | .swapR8 o | .srlR8 o => r8Addrs s o
  | .bitB3R8 _ o | .resB3R8 _ o | .setB3R8 _ o => r8Addrs s o
  | .prefixCB op2 => r8Addrs s (cbOperand op2)
  | .retCond cc => if condHolds s.f cc then [s.sp, s.sp + 1] else []
  | .ret | .reti | .popR16Stk _ => [s.sp, s.sp + 1]
  | .ldhAC => [highPage s s.c]
  | .ldhAImm8 off => [highPage s off]
  | .ldAImm16 addr => [addr]
  | .nop | .ldR16Imm16 _ _ | .ldR16MemA _ | .ldImm16Sp _ | .incR16 _ | .decR16 _ | .addHlR16 _ | .ldR8Imm8 _ _ => []
  | .rlca | .rrca | .rla | .rra | .daa | .cpl | .scf | .ccf => []
  | .jrImm8 _ | .jrCondImm8 _ _ | .stop _ | .halt => []
  | .addAImm8 _ | .adcAImm8 _ | .subAImm8 _ | .sbcAImm8 _ | .andAImm8 _ | .xorAImm8 _ | .orAImm8 _ | .cpAImm8 _ => []
  | .jpCondImm16 _ _ | .jpImm16 _ | .jpHl | .callCondImm16 _ _ | .callImm16 _ | .rstTgt3 _ | .pushR16Stk _ => []
  | .ldhCA | .ldhImm8A _ | .ldImm16A _ | .addSpImm8 _ | .ldHlSpImm8 _ | .ldSpHl | .di | .ei => []
  | .invalidD3 | .invalidDB | .invalidDD | .invalidE3 | .invalidE4 | .invalidEB => []
  | .invalidEC | .invalidED | .invalidF4 | .invalidFC | .invalidFD => []

/-- One entry of a flag table (R14): `-`, `0`, `1`, or the flag's letter. -/
inductive FlagEntry where
  | kept | cleared | set | computed
deriving DecidableEq, Repr

/-- Whether a flag's value before and after agrees with its entry. -/
def FlagEntry.allows (e : FlagEntry) (before after : Bool) : Bool :=
  match e with
  | .kept => after == before
  | .cleared => !after
  | .set => after
  | .computed => true

/-- A row of the table of R28: the entries of Z, N, H, C. -/
structure FlagRow where
  z : FlagEntry
  n : FlagEntry
  h : FlagEntry
  c : FlagEntry
deriving DecidableEq, Repr

/-- Whether F before and after agrees with a row. -/
def FlagRow.allows (r : FlagRow) (before after : Flags) : Bool :=
  r.z.allows before.z after.z && r.n.allows before.n after.n && r.h.allows before.h after.h && r.c.allows before.c after.c

/-- The row "every other instruction" of R28. -/
def FlagRow.untouched : FlagRow := ⟨.kept, .kept, .kept, .kept⟩

/-- The row of R28 of an operation byte of the $CB table. -/
def cbFlagRow (op2 : Byte) : FlagRow :=
  match (bits76 op2).toNat with
  | 0 => ⟨.computed, .cleared, .cleared, if bits53 op2 = 6 then .cleared else .computed⟩
  | 1 => ⟨.computed, .cleared, .set, .kept⟩
  | _ => .untouched

/-- The table of R28. -/
def flagRow : Instr → FlagRow
  | .addAR8 _ | .adcAR8 _ | .addAImm8 _ | .adcAImm8 _ => ⟨.computed, .cleared, .computed, .computed⟩
  | .subAR8 _ | .sbcAR8 _ | .cpAR8 _ | .subAImm8 _ | .sbcAImm8 _ | .cpAImm8 _ => ⟨.computed, .set, .computed, .computed⟩
  | .andAR8 _ | .andAImm8 _ => ⟨.computed, .cleared, .set, .cleared⟩
  | .xorAR8 _ | .orAR8 _ | .xorAImm8 _ | .orAImm8 _ => ⟨.computed, .cleared, .cleared, .cleared⟩
  | .incR8 _ => ⟨.computed, .cleared, .computed, .kept⟩
  | .decR8 _ => ⟨.computed, .set, .computed, .kept⟩
  | .addHlR16 _ => ⟨.kept, .cleared, .computed, .computed⟩
  | .addSpImm8 _ | .ldHlSpImm8 _ => ⟨.cleared, .cleared, .computed, .computed⟩
  | .rlca | .rrca | .rla | .rra => ⟨.cleared, .cleared, .cleared, .computed⟩
  | .daa => ⟨.computed, .kept, .cleared, .computed⟩
  | .cpl => ⟨.kept, .set, .set, .kept⟩
  | .scf => ⟨.kept, .cleared, .cleared, .set⟩
  | .ccf => ⟨.kept, .cleared, .cleared, .computed⟩
  | .rlcR8 _ | .rrcR8 _ | .rlR8 _ | .rrR8 _ | .slaR8 _ | .sraR8 _ | .srlR8 _ =>
    ⟨.computed, .cleared, .cleared, .computed⟩
  | .swapR8 _ => ⟨.computed, .cleared, .cleared, .cleared⟩
  | .bitB3R8 _ _ => ⟨.computed, .cleared, .set, .kept⟩
  | .prefixCB op2 => cbFlagRow op2
  | .popR16Stk r => if r = .af then ⟨.computed, .computed, .computed, .computed⟩ else .untouched
  | .nop | .ldR16Imm16 _ _ | .ldR16MemA _ | .ldAR16Mem _ | .ldImm16Sp _ | .incR16 _ | .decR16 _ => .untouched
  | .ldR8Imm8 _ _ | .jrImm8 _ | .jrCondImm8 _ _ | .stop _ | .halt | .ldR8R8 _ _ => .untouched
  | .retCond _ | .ret | .reti | .jpCondImm16 _ _ | .jpImm16 _ | .jpHl => .untouched
  | .callCondImm16 _ _ | .callImm16 _ | .rstTgt3 _ | .pushR16Stk _ => .untouched
  | .ldhCA | .ldhImm8A _ | .ldImm16A _ | .ldhAC | .ldhAImm8 _ | .ldAImm16 _ | .ldSpHl | .di | .ei => .untouched
  | .resB3R8 _ _ | .setB3R8 _ _ => .untouched
  | .invalidD3 | .invalidDB | .invalidDD | .invalidE3 | .invalidE4 | .invalidEB => .untouched
  | .invalidEC | .invalidED | .invalidF4 | .invalidFC | .invalidFD => .untouched

/-- The eleven invalid opcodes (R96). -/
def invalidOpcodes : List Byte := [0xD3, 0xDB, 0xDD, 0xE3, 0xE4, 0xEB, 0xEC, 0xED, 0xF4, 0xFC, 0xFD]

/-- Whether an instruction is an invalid opcode's (R195). -/
def isInvalid : Instr → Bool
  | .invalidD3 | .invalidDB | .invalidDD | .invalidE3 | .invalidE4 | .invalidEB => true
  | .invalidEC | .invalidED | .invalidF4 | .invalidFC | .invalidFD => true
  | _ => false

/-- Whether an instruction can leave PC at another address than `PCnext` (R30). -/
def isControlTransfer : Instr → Bool
  | .jrImm8 _ | .jrCondImm8 _ _ | .jpImm16 _ | .jpCondImm16 _ _ | .jpHl => true
  | .callImm16 _ | .callCondImm16 _ _ | .rstTgt3 _ | .ret | .retCond _ | .reti => true
  | _ => false

/-- `n` steps in a row. -/
def runSteps : Nat → State → Result
  | 0, s => .next s
  | n + 1, s =>
    match step s with
    | .next t => runSteps n t
    | .fault r => .fault r
    | .refused r => .refused r

end Sys2Proof.Machine
end

