-- ==== Sys2Proof/Certificates/Slice0/Obligations.lean ====
section
/-! DEFINITION. The statements about this machine, for the provers. Each docstring names the rules of spec/ it formalises.

In a statement about `exec`, the state `s` is the one AFTER the instruction's fetch, so that its PC is the spec's `PCnext`
(R13). In a statement about `step`, `platformAct s` is the state once Platform has acted before the step (R9, R222); with
nothing left in Platform's list it is `s` itself (PlatformActs). `s.params` are the parameters of R7; a statement without a
premise on them holds for all their values, and `Params.reference` are the reference values (log entries 12, 13, 15). -/

section Statements

open Sys2Proof Sys2Proof.Machine

/-! ## Encoding -/

/-- R80, R92 to R97: decoding the encoding of a well-formed instruction gives it back, whatever bytes follow. -/
def Obligations.DecodeEncodeRoundTrip : Prop :=
  ∀ i : Instr, i.wellFormed = true → ∀ rest, decodeBytes (encode i ++ rest) = .ok (i, rest)

/-- R81, R98, R100, R101: whatever its bytes, exactly one well-formed instruction starts at a first byte, and its encoding
is those bytes, as many as the length of the first byte says. -/
def Obligations.EncodeDecodeRoundTrip : Prop :=
  ∀ op b1 b2 : Byte,
    (decode op b1 b2).wellFormed = true ∧ encode (decode op b1 b2) = [op, b1, b2].take (opcodeLength op)

/-- Words the sources write out (R83, R104, R130, R131, R183) decode to the instructions they stand for. -/
def Obligations.SampleWords : Prop :=
  decodeBytes [0x06, 0x42] = .ok (.ldR8Imm8 .b 0x42, []) ∧
  decodeBytes [0x80] = .ok (.addAR8 .b, []) ∧
  decodeBytes [0xCB, 0x30] = .ok (.swapR8 .b, []) ∧
  decodeBytes [0xCB, 0x37] = .ok (.swapR8 .a, []) ∧
  decodeBytes [0xCB, 0x40] = .ok (.bitB3R8 0 .b, []) ∧
  decodeBytes [0xCB, 0xCB] = .ok (.setB3R8 1 .e, []) ∧
  decodeBytes [0x28, 0x05] = .ok (.jrCondImm8 .z 0x05, []) ∧
  decodeBytes [0xCD, 0x00, 0x02] = .ok (.callImm16 0x0200, []) ∧
  decodeBytes [0x76] = .ok (.halt, []) ∧
  decodeBytes [0x10, 0x00] = .ok (.stop 0x00, []) ∧
  decodeBytes [0xDF] = .ok (.rstTgt3 3, []) ∧
  decodeBytes [0xF3] = .ok (.di, [])

/-- R98: the length of an instruction is this function of its first byte alone. -/
def Obligations.LengthByFirstByte : Prop :=
  ∀ (op b1 b2 : Byte) (rest : List Byte), ∃ i,
    decodeBytes (op :: b1 :: b2 :: rest) = .ok (i, (op :: b1 :: b2 :: rest).drop (
      if op = 0xCB then 2
      else if op ∈ ([0x01, 0x11, 0x21, 0x31, 0x08, 0xC2, 0xCA, 0xD2, 0xDA, 0xC3, 0xC4, 0xCC, 0xD4, 0xDC, 0xCD, 0xEA,
        0xFA] : List Byte) then 3
      else if op ∈ ([0x06, 0x0E, 0x16, 0x1E, 0x26, 0x2E, 0x36, 0x3E, 0x10, 0x18, 0x20, 0x28, 0x30, 0x38, 0xC6, 0xCE,
        0xD6, 0xDE, 0xE6, 0xEE, 0xF6, 0xFE, 0xE0, 0xF0, 0xE8, 0xF8] : List Byte) then 2
      else 1))

/-- R96, R195: the eleven invalid opcodes, and no other first byte, decode to the invalid instructions; each is one byte
long and only sets the mode to Locked; and a locked core's step does nothing but let Platform act. -/
def Obligations.InvalidOpcodesLock : Prop :=
  (∀ op b1 b2 : Byte, isInvalid (decode op b1 b2) = true ↔
    op ∈ ([0xD3, 0xDB, 0xDD, 0xE3, 0xE4, 0xEB, 0xEC, 0xED, 0xF4, 0xFC, 0xFD] : List Byte)) ∧
  (∀ op ∈ invalidOpcodes, ∀ b1 b2 rest, decodeBytes (op :: rest) = .ok (decode op b1 b2, rest)) ∧
  (∀ (i : Instr) (s : State), isInvalid i = true → exec i s = .next { s with mode := .locked }) ∧
  (∀ s : State, s.mode = .locked → step s = .next (platformAct s))

/-- R183: the byte 0xCB and its operation byte are one instruction, that of the $CB table for every value of the operation
byte; the table's row for the prefix runs that instruction and changes nothing itself. -/
def Obligations.PrefixRunsCbTable : Prop :=
  ∀ (op2 : Byte) (s : State),
    Encodes [0xCB, op2] (decodeCB op2) ∧
    (∃ t, exec (.prefixCB op2) s = .next t) ∧
    exec (.prefixCB op2) s = exec (decodeCB op2) s

/-! ## The step -/

/-- R81, R222: when the core runs, dispatches nothing and has no HALT bug armed, and the bytes at PC are those of an
instruction, the step executes that instruction with PC after it, and then applies the EI delay. -/
def Obligations.StepRunsDecodedInstr : Prop :=
  ∀ (s : State) (bs : List Byte) (i : Instr),
    let u := platformAct s
    u.mode = .running → (u.ime = false ∨ u.pending = 0) → u.haltBug = false →
    decodeBytes bs = .ok (i, []) →
    (∀ k (h : k < bs.length), u.byteAt (u.pc + BitVec.ofNat 16 k) = some bs[k]) →
    step s =
      match exec i { u with pc := u.pc + BitVec.ofNat 16 bs.length } with
      | .next t => .next (if u.eiPending && t.eiPending then { t with ime := true, eiPending := false } else t)
      | .fault r => .fault r
      | .refused r => .refused r

/-- R81, R82, R224: `Fetch8` reads the byte at PC and advances PC, but with `halt_bug` set it clears that instead; and
executing one instruction fetches its bytes so, in ascending order and no more than its length, decodes and executes it, and
sets IME at its end if `ei_pending` was set before its fetch and still is. -/
def Obligations.ExecuteOneRule : Prop :=
  (∀ s : State,
    fetch8 s = ((memRead s s.pc).1,
      if s.haltBug then { (memRead s s.pc).2 with haltBug := false } else { (memRead s s.pc).2 with pc := s.pc + 1 })) ∧
  (∀ s : State,
    let op := fetch8 s
    let b1 := fetch8 op.2
    let b2 := fetch8 b1.2
    let i := decode op.1 b1.1 b2.1
    let fetched := if opcodeLength op.1 = 1 then op.2 else if opcodeLength op.1 = 2 then b1.2 else b2.2
    executeOne s =
      match exec i fetched with
      | .next t => .next (if s.eiPending && t.eiPending then { t with ime := true, eiPending := false } else t)
      | .fault r => .fault r
      | .refused r => .refused r)

/-- R271: `halt` with IME = 0 and a request pending arms the HALT bug; the next instruction's first byte is then read twice,
as opcode and as first operand byte, with PC one short; and a `halt` executed so arms the bug again, for ever. -/
def Obligations.HaltBugFetch : Prop :=
  (∀ s : State, s.ime = false → s.eiPending = false → s.pending ≠ 0 → exec .halt s = .next { s with haltBug := true }) ∧
  (∀ (s : State) (b0 : Byte) (bs : List Byte) (i : Instr),
    let u := platformAct s
    u.mode = .running → u.ime = false → u.eiPending = false → u.haltBug = true →
    decodeBytes (b0 :: bs) = .ok (i, []) →
    u.byteAt u.pc = some b0 →
    (∀ k (h : k < bs.length), u.byteAt (u.pc + BitVec.ofNat 16 k) = some bs[k]) →
    step s = exec i { u with haltBug := false, pc := u.pc + BitVec.ofNat 16 bs.length }) ∧
  (∀ s : State, s.plat.inbox = [] → s.mode = .running → s.ime = false → s.eiPending = false → s.haltBug = true →
    s.pending ≠ 0 → s.byteAt s.pc = some 0x76 → step s = .next s)

/-- R226, R228, R230, R232: with IME = 1 and a request pending, the step of a running or halted core dispatches the pending
interrupt of the least number: IME, `ei_pending` and that request cleared, PC pushed high byte first, PC at 0x0040 + 8*n; it
is refused when the push would write IE or IF. -/
def Obligations.DispatchEffect : Prop :=
  ∀ s : State,
    let u := platformAct s
    let overlap := u.sp - 1 = u.params.ieAddr ∨ u.sp - 1 = u.params.ifAddr ∨
      u.sp - 2 = u.params.ieAddr ∨ u.sp - 2 = u.params.ifAddr
    (u.mode = .running ∨ u.mode = .halted) → u.ime = true → u.ie.extractLsb' 0 5 &&& u.iflag ≠ 0 →
    (overlap → step s = .refused .dispatchPushHitsInterruptRegister) ∧
    (¬ overlap → ∃ n, n < 5 ∧ (u.ie.getLsbD n && u.iflag.getLsbD n) = true ∧
      (∀ k, k < n → (u.ie.getLsbD k && u.iflag.getLsbD k) = false) ∧
      step s =
        let v : State := { u with
          mode := .running, ime := false, eiPending := false, iflag := u.iflag &&& ~~~(1#5 <<< n) }
        let w := memWrite (memWrite v (u.sp - 1) (hiByte u.pc)) (u.sp - 2) (loByte u.pc)
        .next { w with sp := u.sp - 2, pc := BitVec.ofNat 16 (0x40 + 8 * n) })

/-- R232, R233, R234: on a stack in plain memory a dispatch followed by `reti` gives back PC and SP exactly and sets IME; the
rest is as the dispatch left it. -/
def Obligations.DispatchThenReti : Prop :=
  ∀ s t : State, dispatchInterrupt s = .next t → s.place (s.sp - 1) = .plain → s.place (s.sp - 2) = .plain →
    exec .reti t = .next { t with pc := s.pc, sp := s.sp, ime := true, eiPending := false } ∧
    t = { s with
      pc := t.pc, sp := s.sp - 2, ime := false, eiPending := false, iflag := t.iflag, mem := t.mem }

/-- R221: an invalid opcode locks the core, and a locked core stays so for any number of steps: nothing of the CPU changes
but the IF bits Platform sets, and there is no bus access: after `n` steps IF is the old IF or-ed with the requests of the
actions Platform took, and Platform has seen those actions and nothing else. That its actions are a list, one before each
step, is the model's choice (log entry 9). -/
def Obligations.LockedForever : Prop :=
  (∀ (i : Instr) (s : State), isInvalid i = true → exec i s = .next { s with mode := .locked }) ∧
  (∀ (n : Nat) (s : State), s.mode = .locked →
    let acts := s.plat.inbox.take n
    runSteps n s = .next { s with
      iflag := acts.foldl (fun iflag act => iflag ||| act.requests) s.iflag
      plat := { s.plat with
        inbox := s.plat.inbox.drop n
        joypadWake := acts.foldl (fun _ act => act.joypadWake) s.plat.joypadWake
        history := acts.reverse.map BusEvent.act ++ s.plat.history } })

/-- R236: a halted core does nothing while no enabled request is pending; when one is, it runs again in the same step: it
dispatches with IME = 1, and with IME = 0 executes the next instruction, leaving the request in IF. -/
def Obligations.HaltedWakes : Prop :=
  ∀ s : State,
    let u := platformAct s
    u.mode = .halted →
    (u.pending = 0 → step s = .next u) ∧
    (u.pending ≠ 0 → u.ime = true → step s = dispatchInterrupt { u with mode := .running }) ∧
    (u.pending ≠ 0 → u.ime = false → step s = executeOne { u with mode := .running })

/-- R238, R229: a stopped core leaves Stopped, by default, at a step at which JoypadWake is present, whatever IE and IME
hold, and executes from the next step on; an account of the wake in the parameters decides in the situations it lists (log
entry 15). Without such an account and without JoypadWake nothing of the CPU ever changes, but that IF bit 4 is or-ed with
the requests of the actions Platform took. That these are a list, one before each step, is the model's choice (log entry 9). -/
def Obligations.StoppedWakes : Prop :=
  (∀ s : State,
    let u := platformAct s
    let wakes := match u.params.stop.wake.lookup ⟨u.plat.joypadWake, u.ie, u.iflag, u.ime⟩ with
      | some w => w
      | none => u.plat.joypadWake
    s.mode = .stopped →
    (wakes = true → step s = .next { u with mode := .running }) ∧
    (wakes = false → step s = .next u) ∧
    (∀ k, k < 4 → u.iflag.getLsbD k = s.iflag.getLsbD k)) ∧
  (∀ (n : Nat) (s : State), s.mode = .stopped → s.params.stop.wake = [] → s.plat.joypadWake = false →
    (∀ act ∈ s.plat.inbox, act.joypadWake = false) →
    let acts := s.plat.inbox.take n
    runSteps n s = .next { s with
      iflag := acts.foldl (fun iflag act => iflag ||| (act.requests &&& 0b10000)) s.iflag
      plat := { s.plat with
        inbox := s.plat.inbox.drop n
        history := acts.reverse.map BusEvent.act ++ s.plat.history } })

/-- R132: by default `stop` reads a padding byte and sets the mode to Stopped; it is refused with a padding byte other than
0x00, and when an enabled request is pending or JoypadWake is present; while Stopped, IF bits 0 to 3 cannot become set. The
model's choices in it (log entry 15): an account of `stop` in the parameters has its effect in the situations it lists, and
where both refusals apply that of the padding byte is named. -/
def Obligations.StopRule : Prop :=
  (∀ pad : Byte, Encodes [0x10, pad] (.stop pad)) ∧
  (∀ s : State, s.stopAccount 0x00 = none → s.pending = 0 → s.plat.joypadWake = false →
    exec (.stop 0x00) s = .next { s with mode := .stopped }) ∧
  (∀ (pad : Byte) (s : State), s.stopAccount pad = none → pad ≠ 0x00 →
    exec (.stop pad) s = .refused .stopSecondByteNotZero) ∧
  (∀ s : State, s.stopAccount 0x00 = none → s.pending ≠ 0 ∨ s.plat.joypadWake = true →
    exec (.stop 0x00) s = .refused .stopWakeConditionHolds) ∧
  (∀ (pad : Byte) (s : State) (e : StopEffect),
    s.params.stop.entry.lookup ⟨pad, s.pending, s.ime, s.eiPending, s.plat.joypadWake⟩ = some e →
    exec (.stop pad) s = .next { s with mode := e.mode, pc := if e.rereadsPad then s.pc - 1 else s.pc }) ∧
  (∀ (pad : Byte) (s : State), s.params.stop.entry = [] → s.stopAccount pad = none) ∧
  (∀ (s : State) (k : Nat), s.mode = .stopped → k < 4 → (platformAct s).iflag.getLsbD k = s.iflag.getLsbD k)

/-- R142: the three cases of `halt` and its refusal. -/
def Obligations.HaltRule : Prop :=
  Encodes [0x76] .halt ∧
  (∀ s : State, s.eiPending = true → s.pending ≠ 0 → exec .halt s = .refused .haltAfterEiWithRequest) ∧
  (∀ s : State, s.eiPending = false → s.ime = false → s.pending ≠ 0 → exec .halt s = .next { s with haltBug := true }) ∧
  (∀ s : State, s.eiPending = false → s.ime = true → exec .halt s = .next { s with mode := .halted }) ∧
  (∀ s : State, s.pending = 0 → exec .halt s = .next { s with mode := .halted })

/-- R224, R270: a step that sets `ei_pending` leaves IME; the step after it, which with IME = 0 executes one instruction and
dispatches nothing, clears `ei_pending` and sets IME, unless that instruction is `di`. -/
def Obligations.EiDelay : Prop :=
  (∀ s t : State, step s = .next t → s.eiPending = false → t.eiPending = true → t.ime = s.ime) ∧
  (∀ s t : State,
    let u := platformAct s
    u.mode = .running → u.ime = false → u.eiPending = true → step s = .next t →
    t.eiPending = false ∧
    (((fetchInstr u).1 = .di ∧ t.ime = false) ∨ ((fetchInstr u).1 ≠ .di ∧ t.ime = true)))

/-- R223: the writers of IME, exhaustively: a dispatch, `di`, `reti`, and the delayed effect of `ei`. -/
def Obligations.ImeWriters : Prop :=
  ∀ s t : State, step s = .next t → t.ime ≠ s.ime →
    let u := platformAct s
    (t.ime = false ∧ u.pending ≠ 0 ∧ dispatchInterrupt { u with mode := .running } = .next t) ∨
    (t.ime = false ∧ (fetchInstr { u with mode := .running }).1 = .di) ∨
    (t.ime = true ∧ (fetchInstr { u with mode := .running }).1 = .reti) ∨
    (t.ime = true ∧ s.eiPending = true)

/-- R40, R253: the writers of the mode, exhaustively. What an account of `stop` or of the wake in the parameters lists
replaces the default of either (log entry 15). -/
def Obligations.ModeWriters : Prop :=
  ∀ s t : State, step s = .next t → t.mode ≠ s.mode →
    let u := platformAct s
    let v : State := { u with mode := .running }
    let i := (fetchInstr v).1
    (t.mode = .running ∧ s.mode = .halted ∧ u.pending ≠ 0) ∨
    (t.mode = .running ∧ s.mode = .stopped ∧ u.stopWakes = true ∧
      (u.params.stop.wake = [] → u.plat.joypadWake = true)) ∨
    (t.mode = .halted ∧ s.mode = .running ∧ i = .halt) ∨
    (t.mode = .stopped ∧ (s.mode = .running ∨ s.mode = .halted) ∧ i = .stop 0x00 ∧ (fetchInstr v).2.stopAccount 0x00 = none) ∨
    ((s.mode = .running ∨ s.mode = .halted) ∧
      ∃ pad e, i = .stop pad ∧ (fetchInstr v).2.stopAccount pad = some e ∧ t.mode = e.mode) ∨
    (t.mode = .locked ∧ (s.mode = .running ∨ s.mode = .halted) ∧ isInvalid i = true)

/-- R220, R222: no step faults, and a step is refused in four situations only; in those of `stop`, only where no account
of `stop` in the parameters lists the situation (log entry 15). -/
def Obligations.StepRefusals : Prop :=
  (∀ (s : State) (r : Fault), step s ≠ .fault r) ∧
  (∀ (s : State) (r : Refusal), step s = .refused r →
    let v : State := { platformAct s with mode := .running }
    let w := (fetchInstr v).2
    (r = .dispatchPushHitsInterruptRegister ∧ v.ime = true ∧ v.pending ≠ 0 ∧
      (v.sp - 1 = v.params.ieAddr ∨ v.sp - 1 = v.params.ifAddr ∨ v.sp - 2 = v.params.ieAddr ∨ v.sp - 2 = v.params.ifAddr)) ∨
    (r = .stopSecondByteNotZero ∧ ∃ pad, pad ≠ 0x00 ∧ (fetchInstr v).1 = .stop pad ∧ w.stopAccount pad = none) ∨
    (r = .stopWakeConditionHolds ∧ (fetchInstr v).1 = .stop 0x00 ∧ w.stopAccount 0x00 = none ∧
      (v.pending ≠ 0 ∨ v.plat.joypadWake = true)) ∨
    (r = .haltAfterEiWithRequest ∧ (fetchInstr v).1 = .halt ∧ v.eiPending = true ∧ v.pending ≠ 0))

/-- R9, R229: what Platform can do to the machine between two steps: set IF bits, only bit 4 while Stopped, and change its
own side: the coming actions, the level of JoypadWake, and the record of what it did. That its actions are a list, one
before each step, is the model's choice (log entry 9). -/
def Obligations.PlatformActs : Prop :=
  (∀ s : State, s.plat.inbox = [] → platformAct s = s) ∧
  (∀ (s : State) (act : PlatformAct) (rest : List PlatformAct), s.plat.inbox = act :: rest →
    platformAct s = { s with
      iflag := if s.mode = .stopped then s.iflag ||| (act.requests &&& 0b10000) else s.iflag ||| act.requests
      plat := { s.plat with
        inbox := rest
        joypadWake := act.joypadWake
        history := BusEvent.act act :: s.plat.history } })

/-! ## Invariants and launch -/

/-- R222 ("Invariant"), and the canonical form of memory (log entry 5): every step keeps them. And no step changes a
parameter (R7). -/
def Obligations.InvKeptByStep : Prop :=
  ∀ s t : State, step s = .next t → (s.Inv → t.Inv) ∧ t.params = s.params

/-- The invariant (log entry 5) and the spec's constraints on a launch state hold at reset and in every after-boot-ROM state
with canonical memory that lists neither interrupt register's address (R260, R261, R262). -/
def Obligations.InvAtLaunch : Prop :=
  State.reset.Inv ∧ State.reset.isLaunchState ∧
  ∀ (checksumZero : Bool) (mem : Memory) (plat : Platform) (params : Params),
    mem.wf = true → mem.find params.ieAddr.toNat = none → mem.find params.ifAddr.toNat = none →
    (State.afterBootRom checksumZero mem plat params).Inv ∧ (State.afterBootRom checksumZero mem plat params).isLaunchState

/-- R261, R262: the values the two reference launch states give. Of power-on only those R261 gives are stated, and that
memory is its launch content, a free value (log entry 4). The model's choices in it: that power-on is its reset (log entry
1), that Platform owns no address at reset (log entry 6), that the parameters are then at their reference values, so that IE
and IF have the addresses of log entry 12 and bits 7 to 5 of log entry 13, and `stop` its default (log entry 15). -/
def Obligations.LaunchValues : Prop :=
  (State.reset.pc = 0x0000 ∧ State.reset.ime = false ∧ State.reset.ie = 0x00 ∧ State.reset.iflag = 0 ∧
    State.reset.eiPending = false ∧ State.reset.haltBug = false ∧ State.reset.mode = .running ∧
    State.reset.params = Params.reference ∧
    ∀ addr : Word, addr ≠ 0xFFFF → addr ≠ 0xFF0F → State.reset.byteAt addr = some (Config.launchByte addr)) ∧
  (∀ (checksumZero : Bool) (mem : Memory) (plat : Platform) (params : Params),
    let s := State.afterBootRom checksumZero mem plat params
    s.af = (if checksumZero then 0x0180 else 0x01B0) ∧ s.bc = 0x0013 ∧ s.de = 0x00D8 ∧ s.hl = 0x014D ∧
    s.sp = 0xFFFE ∧ s.pc = 0x0100 ∧ s.ime = false ∧ s.ie = 0x00 ∧ s.iflag = 0b00001 ∧
    s.eiPending = false ∧ s.haltBug = false ∧ s.mode = .running ∧
    (params = Params.reference → (memRead s 0xFFFF).1 = 0x00 ∧ (memRead s 0xFF0F).1 = 0xE1))

/-- R26: bits 3 to 0 of F are always 0, in F, in AF and in what `push af` stores; writing F as a whole, which `pop af` does,
keeps only the bits of the mask 0xF0. -/
def Obligations.FlagBitsThreeToZero : Prop :=
  (∀ s : State, s.f.toByte &&& 0x0F = 0 ∧ s.af &&& 0x000F = 0) ∧
  (∀ v : Byte, (Flags.ofByte v).toByte = v &&& 0xF0) ∧
  (∀ s : State, ∃ t, exec (.popR16Stk .af) s = .next t ∧ t.f.toByte = loByte (pop16 s).1 &&& 0xF0)

/-! ## Memory, the stack, operands -/

/-- R52, R53: a byte read and a byte write, at the two interrupt registers and elsewhere. Elsewhere they are Platform's: of
plain memory (R58), or of a device, whose answer is the free value `Config.busRead` (R56; log entry 7). R36, R37: each of bits
7 to 5 of IF and of IE is plain storage, or reads as a constant and ignores writes, as the parameters say; at their reference
values IE is at 0xFFFF and stores all its bits, and IF is at 0xFF0F and reads these bits as 1. The model's choices in it:
Platform's regions (log entry 6), that a write to one is only recorded (log entry 8), the reference addresses (log entry 12)
and bits 7 to 5 (log entry 13). -/
def Obligations.ByteAccess : Prop :=
  (∀ s : State, memRead s s.params.ieAddr = (s.ieRead, s)) ∧
  (∀ s : State, s.params.ifAddr ≠ s.params.ieAddr → memRead s s.params.ifAddr = (s.ifRead, s)) ∧
  (∀ (s : State) (addr : Word), addr ≠ s.params.ieAddr → addr ≠ s.params.ifAddr →
    memRead s addr =
      if s.plat.owned.any (fun r => decide (r.lo ≤ addr) && decide (addr ≤ r.hi)) then
        (Config.busRead s.plat.history addr, { s with plat := s.plat.note (.read addr) })
      else (s.mem.read addr, s)) ∧
  (∀ (s : State) (v : Byte), memWrite s s.params.ieAddr v = { s with ie := s.ieWritten v }) ∧
  (∀ (s : State) (v : Byte), s.params.ifAddr ≠ s.params.ieAddr →
    memWrite s s.params.ifAddr v = { s with iflag := v.extractLsb' 0 5, ifUpper := s.ifUpperWritten v }) ∧
  (∀ (s : State) (addr : Word) (v : Byte), addr ≠ s.params.ieAddr → addr ≠ s.params.ifAddr →
    memWrite s addr v =
      if s.plat.owned.any (fun r => decide (r.lo ≤ addr) && decide (addr ≤ r.hi)) then
        { s with plat := s.plat.note (.write addr v) }
      else { s with mem := s.mem.write addr v }) ∧
  (∀ (s : State) (v : Byte) (k : Nat),
    (k < 5 → s.ieRead.getLsbD k = s.ie.getLsbD k ∧ s.ifRead.getLsbD k = s.iflag.getLsbD k ∧
      (s.ieWritten v).getLsbD k = v.getLsbD k) ∧
    (k < 3 →
      s.ieRead.getLsbD (5 + k) =
        (if s.params.ieUnused.stored.getLsbD k then s.ie.getLsbD (5 + k) else s.params.ieUnused.value.getLsbD k) ∧
      s.ifRead.getLsbD (5 + k) =
        (if s.params.ifUnused.stored.getLsbD k then s.ifUpper.getLsbD k else s.params.ifUnused.value.getLsbD k) ∧
      (s.params.ieUnused.stored.getLsbD k = true → (s.ieWritten v).getLsbD (5 + k) = v.getLsbD (5 + k)) ∧
      (s.params.ifUnused.stored.getLsbD k = true → (s.ifUpperWritten v).getLsbD k = v.getLsbD (5 + k)))) ∧
  (∀ (s : State) (v : Byte), s.params = Params.reference →
    memRead s 0xFFFF = (s.ie, s) ∧ memRead s 0xFF0F = (0b111#3 ++ s.iflag, s) ∧
    memWrite s 0xFFFF v = { s with ie := v } ∧ memWrite s 0xFF0F v = { s with iflag := v.extractLsb' 0 5 })

/-- R58: plain memory gives back the value written last, or its launch content; reading it changes nothing; no write and no
action of Platform changes it at another address. Which addresses are plain is the model's choice (log entry 6), the launch
content a free value (log entry 4). -/
def Obligations.PlainMemory : Prop :=
  (∀ (s : State) (addr : Word) (v : Byte), s.place addr = .plain →
    memRead (memWrite s addr v) addr = (v, memWrite s addr v)) ∧
  (∀ (s : State) (addr : Word), s.place addr = .plain → s.mem.find addr.toNat = none →
    memRead s addr = (Config.launchByte addr, s)) ∧
  (∀ (s : State) (addr other : Word) (v : Byte), other ≠ addr → (memWrite s addr v).byteAt other = s.byteAt other) ∧
  (∀ (s : State) (addr other : Word), (memRead s addr).2.byteAt other = s.byteAt other) ∧
  (∀ (s : State) (addr : Word), s.place addr = .plain → (platformAct s).byteAt addr = s.byteAt addr)

/-- R55, R73: `ld [imm16], sp` leaves SP's low byte at the address and its high byte at the next one, modulo 2^16, each read
back by byte loads, when both are plain memory. -/
def Obligations.SixteenBitStore : Prop :=
  ∀ (s : State) (addr : Word), s.place addr = .plain → s.place (addr + 1) = .plain →
    ∃ t u v, exec (.ldImm16Sp addr) s = .next t ∧
      exec (.ldAImm16 addr) t = .next u ∧ u.a = loByte s.sp ∧
      exec (.ldAImm16 (addr + 1)) u = .next v ∧ v.a = hiByte s.sp

/-- R84 to R88: the operand tables: what each field value reads, writes or tests, and how `hl+` and `hl-` change HL. -/
def Obligations.OperandTables : Prop :=
  (∀ s : State, readR8 s (R8.ofBits 0) = (s.b, s) ∧ readR8 s (R8.ofBits 1) = (s.c, s) ∧
    readR8 s (R8.ofBits 2) = (s.d, s) ∧ readR8 s (R8.ofBits 3) = (s.e, s) ∧ readR8 s (R8.ofBits 4) = (s.h, s) ∧
    readR8 s (R8.ofBits 5) = (s.l, s) ∧ readR8 s (R8.ofBits 6) = memRead s (s.h ++ s.l) ∧
    readR8 s (R8.ofBits 7) = (s.a, s)) ∧
  (∀ (s : State) (v : Byte), writeR8 s (R8.ofBits 0) v = { s with b := v } ∧
    writeR8 s (R8.ofBits 1) v = { s with c := v } ∧ writeR8 s (R8.ofBits 2) v = { s with d := v } ∧
    writeR8 s (R8.ofBits 3) v = { s with e := v } ∧ writeR8 s (R8.ofBits 4) v = { s with h := v } ∧
    writeR8 s (R8.ofBits 5) v = { s with l := v } ∧ writeR8 s (R8.ofBits 6) v = memWrite s (s.h ++ s.l) v ∧
    writeR8 s (R8.ofBits 7) v = { s with a := v }) ∧
  (∀ s : State, readR16 s (R16.ofBits 0) = s.b ++ s.c ∧ readR16 s (R16.ofBits 1) = s.d ++ s.e ∧
    readR16 s (R16.ofBits 2) = s.h ++ s.l ∧ readR16 s (R16.ofBits 3) = s.sp) ∧
  (∀ s : State, readR16Stk s (R16Stk.ofBits 0) = s.b ++ s.c ∧ readR16Stk s (R16Stk.ofBits 1) = s.d ++ s.e ∧
    readR16Stk s (R16Stk.ofBits 2) = s.h ++ s.l ∧ readR16Stk s (R16Stk.ofBits 3) = s.a ++ s.f.toByte) ∧
  (∀ (s : State) (v : Word) (r : R16), readR16 (writeR16 s r v) r = v ∧ ∀ q, q ≠ r → readR16 (writeR16 s r v) q = readR16 s q) ∧
  (∀ s : State, addrR16Mem s (R16Mem.ofBits 0) = s.b ++ s.c ∧ addrR16Mem s (R16Mem.ofBits 1) = s.d ++ s.e ∧
    addrR16Mem s (R16Mem.ofBits 2) = s.h ++ s.l ∧ addrR16Mem s (R16Mem.ofBits 3) = s.h ++ s.l) ∧
  (∀ s : State, postModify s (R16Mem.ofBits 0) = s ∧ postModify s (R16Mem.ofBits 1) = s ∧
    postModify s (R16Mem.ofBits 2) = { s with h := hiByte (s.hl + 1), l := loByte (s.hl + 1) } ∧
    postModify s (R16Mem.ofBits 3) = { s with h := hiByte (s.hl - 1), l := loByte (s.hl - 1) }) ∧
  (∀ f : Flags, condHolds f (Cond.ofBits 0) = !f.z ∧ condHolds f (Cond.ofBits 1) = f.z ∧
    condHolds f (Cond.ofBits 2) = !f.c ∧ condHolds f (Cond.ofBits 3) = f.c)

/-- R70, a decision of the spec (D7): a byte of an instruction stored into plain memory is what the very next fetch there reads. -/
def Obligations.FetchSeesStore : Prop :=
  ∀ (s : State) (addr : Word), s.place addr = .plain →
    ∃ t, exec (.ldImm16A addr) s = .next t ∧ (fetch8 { t with pc := addr }).1 = s.a

/-- R60, and R61, which the spec marks as derived from it: `Push16` and `Pop16`, sub-step by sub-step. -/
def Obligations.PushAndPop : Prop :=
  (∀ (s : State) (v : Word),
    let s1 : State := { s with sp := s.sp - 1 }
    let s2 := memWrite s1 s1.sp (v.extractLsb' 8 8)
    let s3 : State := { s2 with sp := s2.sp - 1 }
    push16 s v = memWrite s3 s3.sp (v.extractLsb' 0 8)) ∧
  (∀ s : State,
    let lo := memRead s s.sp
    let s1 : State := { lo.2 with sp := lo.2.sp + 1 }
    let hi := memRead s1 s1.sp
    let s2 : State := { hi.2 with sp := hi.2.sp + 1 }
    pop16 s = (hi.1 ++ lo.1, s2))

/-- R182 ("Corner cases"): on a stack in plain memory, a push and then a pop copies the pushed register pair to the popped
one and restores SP; of the same pair it changes nothing but the two bytes below SP, which are those at `pushAddrs s`. -/
def Obligations.PushThenPop : Prop :=
  ∀ (s : State) (r q : R16Stk), s.place (s.sp - 1) = .plain → s.place (s.sp - 2) = .plain →
    ∃ t, exec (.pushR16Stk r) s = .next t ∧
      exec (.popR16Stk q) t = .next (writeR16Stk { s with mem := t.mem } q (readR16Stk s r)) ∧
      writeR16Stk { s with mem := t.mem } r (readR16Stk s r) = { s with mem := t.mem } ∧
      ∀ addr : Word, addr ∉ pushAddrs s → t.byteAt addr = s.byteAt addr

/-- R170, R176, R177: on a stack in plain memory, a call or `rst` and then `ret` comes back to the instruction after the
call with SP as it was. -/
def Obligations.CallThenRet : Prop :=
  ∀ s : State, s.place (s.sp - 1) = .plain → s.place (s.sp - 2) = .plain →
    (∀ addr : Word, ∃ t, exec (.callImm16 addr) s = .next t ∧ t.pc = addr ∧
      exec .ret t = .next { s with mem := t.mem }) ∧
    (∀ tgt : BitVec 3, ∃ t, exec (.rstTgt3 tgt) s = .next t ∧ t.pc.toNat = 8 * tgt.toNat ∧
      exec .ret t = .next { s with mem := t.mem })

/-! ## The instructions of Block 0 and Block 1 -/

/-- R111: `nop` changes nothing, and the step that executes it moves PC by one and changes nothing else. -/
def Obligations.NopRule : Prop :=
  Encodes [0x00] .nop ∧
  (∀ s : State, exec .nop s = .next s) ∧
  (∀ s : State,
    let u := platformAct s
    u.mode = .running → (u.ime = false ∨ u.pending = 0) → u.haltBug = false → u.eiPending = false →
    u.byteAt u.pc = some 0x00 → step s = .next { u with pc := u.pc + 1 })

/-- R112, R115: the 16-bit immediate load and the store of SP. -/
def Obligations.SixteenBitLoads : Prop :=
  (∀ (r : R16) (lo hi : Byte), Encodes [0b00#2 ++ r.bits ++ 0b0001#4, lo, hi] (.ldR16Imm16 r (hi ++ lo))) ∧
  (∀ (imm : Word) (s : State),
    exec (.ldR16Imm16 .bc imm) s = .next { s with b := hiByte imm, c := loByte imm } ∧
    exec (.ldR16Imm16 .de imm) s = .next { s with d := hiByte imm, e := loByte imm } ∧
    exec (.ldR16Imm16 .hl imm) s = .next { s with h := hiByte imm, l := loByte imm } ∧
    exec (.ldR16Imm16 .sp imm) s = .next { s with sp := imm }) ∧
  (∀ lo hi : Byte, Encodes [0x08, lo, hi] (.ldImm16Sp (hi ++ lo))) ∧
  (∀ (addr : Word) (s : State),
    exec (.ldImm16Sp addr) s = .next (memWrite (memWrite s addr (loByte s.sp)) (addr + 1) (hiByte s.sp)))

/-- R113, R114: A stored to and loaded from the address in BC, DE or HL, HL changed after the access. -/
def Obligations.R16MemLoads : Prop :=
  (∀ m : R16Mem, Encodes [0b00#2 ++ m.bits ++ 0b0010#4] (.ldR16MemA m) ∧
    Encodes [0b00#2 ++ m.bits ++ 0b1010#4] (.ldAR16Mem m)) ∧
  (∀ s : State,
    exec (.ldR16MemA .bc) s = .next (memWrite s s.bc s.a) ∧
    exec (.ldR16MemA .de) s = .next (memWrite s s.de s.a) ∧
    exec (.ldR16MemA .hli) s = .next { memWrite s s.hl s.a with h := hiByte (s.hl + 1), l := loByte (s.hl + 1) } ∧
    exec (.ldR16MemA .hld) s = .next { memWrite s s.hl s.a with h := hiByte (s.hl - 1), l := loByte (s.hl - 1) }) ∧
  (∀ s : State,
    exec (.ldAR16Mem .bc) s = .next { (memRead s s.bc).2 with a := (memRead s s.bc).1 } ∧
    exec (.ldAR16Mem .de) s = .next { (memRead s s.de).2 with a := (memRead s s.de).1 } ∧
    exec (.ldAR16Mem .hli) s = .next { (memRead s s.hl).2 with
      a := (memRead s s.hl).1, h := hiByte (s.hl + 1), l := loByte (s.hl + 1) } ∧
    exec (.ldAR16Mem .hld) s = .next { (memRead s s.hl).2 with
      a := (memRead s s.hl).1, h := hiByte (s.hl - 1), l := loByte (s.hl - 1) })

/-- R116, R117, R118: 16-bit increment and decrement, which touch no flag, and the addition to HL, which takes H from bit 11
and C from bit 15 and leaves Z. -/
def Obligations.SixteenBitArithmetic : Prop :=
  (∀ r : R16, Encodes [0b00#2 ++ r.bits ++ 0b0011#4] (.incR16 r) ∧ Encodes [0b00#2 ++ r.bits ++ 0b1011#4] (.decR16 r) ∧
    Encodes [0b00#2 ++ r.bits ++ 0b1001#4] (.addHlR16 r)) ∧
  (∀ (r : R16) (s : State),
    exec (.incR16 r) s = .next (writeR16 s r (BitVec.ofNat 16 (((readR16 s r).toNat + 1) % 65536))) ∧
    exec (.decR16 r) s = .next (writeR16 s r (BitVec.ofInt 16 ((readR16 s r).toNat - 1))) ∧
    exec (.addHlR16 r) s =
      let sum := s.hl.toNat + (readR16 s r).toNat
      .next { writeR16 s .hl (BitVec.ofNat 16 (sum % 65536)) with
        f := ⟨s.f.z, false, decide (4095 < s.hl.toNat % 4096 + (readR16 s r).toNat % 4096), decide (65535 < sum)⟩ })

/-- R119, R120: 8-bit increment and decrement of a register or of the byte at HL; C is kept. -/
def Obligations.EightBitIncDec : Prop :=
  ∀ (o : R8) (s : State),
    Encodes [0b00#2 ++ o.bits ++ 0b100#3] (.incR8 o) ∧ Encodes [0b00#2 ++ o.bits ++ 0b101#3] (.decR8 o) ∧
    exec (.incR8 o) s =
      (let v := (readR8 s o).1.toNat
       .next { writeR8 (readR8 s o).2 o (BitVec.ofNat 8 ((v + 1) % 256)) with
        f := ⟨decide (v = 255), false, decide (v % 16 = 15), s.f.c⟩ }) ∧
    exec (.decR8 o) s =
      (let v := (readR8 s o).1.toNat
       .next { writeR8 (readR8 s o).2 o (BitVec.ofInt 8 (v - 1)) with
        f := ⟨decide (v = 1), true, decide (v % 16 = 0), s.f.c⟩ })

/-- R121, R141: the 8-bit loads. The source is read before the destination is written, and the address of `[hl]` is formed
from the old HL. -/
def Obligations.EightBitLoads : Prop :=
  (∀ (o : R8) (imm : Byte) (s : State), Encodes [0b00#2 ++ o.bits ++ 0b110#3, imm] (.ldR8Imm8 o imm) ∧
    exec (.ldR8Imm8 o imm) s = .next (writeR8 s o imm)) ∧
  (∀ (dst src : R8) (s : State),
    (¬ (dst = .hlInd ∧ src = .hlInd) → Encodes [0b01#2 ++ dst.bits ++ src.bits] (.ldR8R8 dst src)) ∧
    exec (.ldR8R8 dst src) s = .next (writeR8 (readR8 s src).2 dst (readR8 s src).1)) ∧
  (∀ (o : R8) (s : State), o ≠ .hlInd → exec (.ldR8R8 o o) s = .next s)

/-- R122 to R125: the four one-byte rotates of A: Z is always cleared. -/
def Obligations.AccumulatorRotates : Prop :=
  Encodes [0x07] .rlca ∧ Encodes [0x0F] .rrca ∧ Encodes [0x17] .rla ∧ Encodes [0x1F] .rra ∧
  ∀ s : State,
    exec .rlca s = .next { s with a := s.a.rotateLeft 1, f := ⟨false, false, false, s.a.getLsbD 7⟩ } ∧
    exec .rrca s = .next { s with a := s.a.rotateRight 1, f := ⟨false, false, false, s.a.getLsbD 0⟩ } ∧
    exec .rla s = .next { s with
      a := BitVec.ofNat 8 ((2 * s.a.toNat + s.f.c.toNat) % 256), f := ⟨false, false, false, s.a.getLsbD 7⟩ } ∧
    exec .rra s = .next { s with
      a := BitVec.ofNat 8 (s.a.toNat / 2 + 128 * s.f.c.toNat), f := ⟨false, false, false, s.a.getLsbD 0⟩ }

/-- R126: `daa`. -/
def Obligations.DaaRule : Prop :=
  Encodes [0x27] .daa ∧
  ∀ s : State,
    (s.f.n = false →
      let lowFix : Bool := s.f.h || decide (9 < s.a.toNat % 16)
      let highFix : Bool := s.f.c || decide (0x99 < s.a.toNat)
      let r := BitVec.ofNat 8 ((s.a.toNat + (if lowFix then 6 else 0) + (if highFix then 96 else 0)) % 256)
      exec .daa s = .next { s with a := r, f := ⟨decide (r = 0), false, false, highFix⟩ }) ∧
    (s.f.n = true →
      let r := BitVec.ofInt 8 (s.a.toNat - (if s.f.h then 6 else 0) - (if s.f.c then 96 else 0))
      exec .daa s = .next { s with a := r, f := ⟨decide (r = 0), true, false, s.f.c⟩ })

/-- R126 ("decimal-adjust A after an addition or subtraction of two packed-BCD bytes"), with R147 and R149: `daa` after `adc`
or `sbc` of packed-BCD bytes gives the packed-BCD sum or difference modulo 100, and the decimal carry or borrow in C. -/
def Obligations.DaaIsDecimal : Prop :=
  ∀ s : State, s.a.toNat % 16 ≤ 9 → s.a.toNat / 16 ≤ 9 → s.b.toNat % 16 ≤ 9 → s.b.toNat / 16 ≤ 9 →
    let x := 10 * (s.a.toNat / 16) + s.a.toNat % 16
    let y := 10 * (s.b.toNat / 16) + s.b.toNat % 16
    let c := s.f.c.toNat
    (∃ t u, exec (.adcAR8 .b) s = .next t ∧ exec .daa t = .next u ∧ u.a.toNat % 16 ≤ 9 ∧
      10 * (u.a.toNat / 16) + u.a.toNat % 16 = (x + y + c) % 100 ∧ u.f.c = decide (100 ≤ x + y + c)) ∧
    (∃ t u, exec (.sbcAR8 .b) s = .next t ∧ exec .daa t = .next u ∧ u.a.toNat % 16 ≤ 9 ∧
      10 * (u.a.toNat / 16) + u.a.toNat % 16 = (x + 200 - y - c) % 100 ∧ u.f.c = decide (x < y + c))

/-- R127, R128, R129. -/
def Obligations.CplScfCcf : Prop :=
  Encodes [0x2F] .cpl ∧ Encodes [0x37] .scf ∧ Encodes [0x3F] .ccf ∧
  ∀ s : State,
    exec .cpl s = .next { s with a := ~~~s.a, f := ⟨s.f.z, true, true, s.f.c⟩ } ∧
    exec .scf s = .next { s with f := ⟨s.f.z, false, false, true⟩ } ∧
    exec .ccf s = .next { s with f := ⟨s.f.z, false, false, !s.f.c⟩ }

/-- R130, R131: the relative jumps: the displacement is signed and the base is the address of the next instruction. -/
def Obligations.RelativeJumps : Prop :=
  (∀ e : Byte, Encodes [0x18, e] (.jrImm8 e)) ∧
  (∀ (cc : Cond) (e : Byte), Encodes [0b001#3 ++ cc.bits ++ 0b000#3, e] (.jrCondImm8 cc e)) ∧
  (∀ (e : Byte) (s : State), exec (.jrImm8 e) s = .next { s with pc := BitVec.ofInt 16 (s.pc.toNat + e.toInt) }) ∧
  (∀ (cc : Cond) (e : Byte) (s : State),
    (condHolds s.f cc = true →
      exec (.jrCondImm8 cc e) s = .next { s with pc := BitVec.ofInt 16 (s.pc.toNat + e.toInt) }) ∧
    (condHolds s.f cc = false → exec (.jrCondImm8 cc e) s = .next s))

/-! ## Block 2 and the arithmetic of Block 3 -/

/-- R146 to R153: the eight operations on A with an `r8` operand, which is read before A is written. -/
def Obligations.AluR8 : Prop :=
  ∀ (o : R8) (s : State),
    let v := (readR8 s o).1
    let w := (readR8 s o).2
    let x := s.a.toNat
    let y := v.toNat
    let c := s.f.c.toNat
    (Encodes [0b10000#5 ++ o.bits] (.addAR8 o) ∧ Encodes [0b10001#5 ++ o.bits] (.adcAR8 o) ∧
      Encodes [0b10010#5 ++ o.bits] (.subAR8 o) ∧ Encodes [0b10011#5 ++ o.bits] (.sbcAR8 o) ∧
      Encodes [0b10100#5 ++ o.bits] (.andAR8 o) ∧ Encodes [0b10101#5 ++ o.bits] (.xorAR8 o) ∧
      Encodes [0b10110#5 ++ o.bits] (.orAR8 o) ∧ Encodes [0b10111#5 ++ o.bits] (.cpAR8 o)) ∧
    exec (.addAR8 o) s = .next { w with
      a := BitVec.ofNat 8 ((x + y) % 256)
      f := ⟨decide ((x + y) % 256 = 0), false, decide (15 < x % 16 + y % 16), decide (255 < x + y)⟩ } ∧
    exec (.adcAR8 o) s = .next { w with
      a := BitVec.ofNat 8 ((x + y + c) % 256)
      f := ⟨decide ((x + y + c) % 256 = 0), false, decide (15 < x % 16 + y % 16 + c), decide (255 < x + y + c)⟩ } ∧
    exec (.subAR8 o) s = .next { w with
      a := BitVec.ofInt 8 (x - y)
      f := ⟨decide (x = y), true, decide (x % 16 < y % 16), decide (x < y)⟩ } ∧
    exec (.sbcAR8 o) s = .next { w with
      a := BitVec.ofInt 8 (x - y - c)
      f := ⟨decide ((x - y - c : Int) % 256 = 0), true, decide (x % 16 < y % 16 + c), decide (x < y + c)⟩ } ∧
    exec (.andAR8 o) s = .next { w with a := s.a &&& v, f := ⟨decide (s.a &&& v = 0), false, true, false⟩ } ∧
    exec (.xorAR8 o) s = .next { w with a := s.a ^^^ v, f := ⟨decide (s.a = v), false, false, false⟩ } ∧
    exec (.orAR8 o) s = .next { w with a := s.a ||| v, f := ⟨decide (s.a = 0 ∧ v = 0), false, false, false⟩ } ∧
    exec (.cpAR8 o) s = .next { w with f := ⟨decide (s.a = v), true, decide (x % 16 < y % 16), decide (x < y)⟩ }

/-- R161 to R168: the eight operations on A with an immediate operand. -/
def Obligations.AluImm8 : Prop :=
  ∀ (v : Byte) (s : State),
    let x := s.a.toNat
    let y := v.toNat
    let c := s.f.c.toNat
    (Encodes [0xC6, v] (.addAImm8 v) ∧ Encodes [0xCE, v] (.adcAImm8 v) ∧ Encodes [0xD6, v] (.subAImm8 v) ∧
      Encodes [0xDE, v] (.sbcAImm8 v) ∧ Encodes [0xE6, v] (.andAImm8 v) ∧ Encodes [0xEE, v] (.xorAImm8 v) ∧
      Encodes [0xF6, v] (.orAImm8 v) ∧ Encodes [0xFE, v] (.cpAImm8 v)) ∧
    exec (.addAImm8 v) s = .next { s with
      a := BitVec.ofNat 8 ((x + y) % 256)
      f := ⟨decide ((x + y) % 256 = 0), false, decide (15 < x % 16 + y % 16), decide (255 < x + y)⟩ } ∧
    exec (.adcAImm8 v) s = .next { s with
      a := BitVec.ofNat 8 ((x + y + c) % 256)
      f := ⟨decide ((x + y + c) % 256 = 0), false, decide (15 < x % 16 + y % 16 + c), decide (255 < x + y + c)⟩ } ∧
    exec (.subAImm8 v) s = .next { s with
      a := BitVec.ofInt 8 (x - y)
      f := ⟨decide (x = y), true, decide (x % 16 < y % 16), decide (x < y)⟩ } ∧
    exec (.sbcAImm8 v) s = .next { s with
      a := BitVec.ofInt 8 (x - y - c)
      f := ⟨decide ((x - y - c : Int) % 256 = 0), true, decide (x % 16 < y % 16 + c), decide (x < y + c)⟩ } ∧
    exec (.andAImm8 v) s = .next { s with a := s.a &&& v, f := ⟨decide (s.a &&& v = 0), false, true, false⟩ } ∧
    exec (.xorAImm8 v) s = .next { s with a := s.a ^^^ v, f := ⟨decide (s.a = v), false, false, false⟩ } ∧
    exec (.orAImm8 v) s = .next { s with a := s.a ||| v, f := ⟨decide (s.a = 0 ∧ v = 0), false, false, false⟩ } ∧
    exec (.cpAImm8 v) s = .next { s with f := ⟨decide (s.a = v), true, decide (x % 16 < y % 16), decide (x < y)⟩ }

/-! ## Block 3: control transfers, stack, loads of A, SP, interrupts -/

/-- R172, R173, R174: the absolute jumps. -/
def Obligations.AbsoluteJumps : Prop :=
  (∀ lo hi : Byte, Encodes [0xC3, lo, hi] (.jpImm16 (hi ++ lo))) ∧ Encodes [0xE9] .jpHl ∧
  (∀ (cc : Cond) (lo hi : Byte), Encodes [0b110#3 ++ cc.bits ++ 0b010#3, lo, hi] (.jpCondImm16 cc (hi ++ lo))) ∧
  (∀ (addr : Word) (s : State), exec (.jpImm16 addr) s = .next { s with pc := addr }) ∧
  (∀ s : State, exec .jpHl s = .next { s with pc := s.h ++ s.l }) ∧
  (∀ (cc : Cond) (addr : Word) (s : State),
    (condHolds s.f cc = true → exec (.jpCondImm16 cc addr) s = .next { s with pc := addr }) ∧
    (condHolds s.f cc = false → exec (.jpCondImm16 cc addr) s = .next s))

/-- R175, R176, R177: the calls and `rst`: the return address is pushed high byte first; a call whose condition fails
changes nothing. -/
def Obligations.CallsAndRst : Prop :=
  (∀ lo hi : Byte, Encodes [0xCD, lo, hi] (.callImm16 (hi ++ lo))) ∧
  (∀ (cc : Cond) (lo hi : Byte), Encodes [0b110#3 ++ cc.bits ++ 0b100#3, lo, hi] (.callCondImm16 cc (hi ++ lo))) ∧
  (∀ tgt : BitVec 3, Encodes [0b11#2 ++ tgt ++ 0b111#3] (.rstTgt3 tgt)) ∧
  ∀ s : State,
    let pushed : State :=
      { memWrite (memWrite s (s.sp - 1) (s.pc.extractLsb' 8 8)) (s.sp - 2) (s.pc.extractLsb' 0 8) with sp := s.sp - 2 }
    (∀ addr : Word, exec (.callImm16 addr) s = .next { pushed with pc := addr }) ∧
    (∀ (cc : Cond) (addr : Word),
      (condHolds s.f cc = true → exec (.callCondImm16 cc addr) s = .next { pushed with pc := addr }) ∧
      (condHolds s.f cc = false → exec (.callCondImm16 cc addr) s = .next s)) ∧
    (∀ tgt : BitVec 3, exec (.rstTgt3 tgt) s = .next { pushed with pc := BitVec.ofNat 16 (8 * tgt.toNat) })

/-- R169, R170, R171: the returns: PC is popped low byte first; `reti` also sets IME at once and clears `ei_pending`; a
return whose condition fails changes nothing. -/
def Obligations.Returns : Prop :=
  Encodes [0xC9] .ret ∧ Encodes [0xD9] .reti ∧
  (∀ cc : Cond, Encodes [0b110#3 ++ cc.bits ++ 0b000#3] (.retCond cc)) ∧
  ∀ s : State,
    let lo := memRead s s.sp
    let hi := memRead lo.2 (s.sp + 1)
    let popped : State := { hi.2 with sp := s.sp + 2, pc := hi.1 ++ lo.1 }
    exec .ret s = .next popped ∧
    exec .reti s = .next { popped with ime := true, eiPending := false } ∧
    (∀ cc : Cond,
      (condHolds s.f cc = true → exec (.retCond cc) s = .next popped) ∧
      (condHolds s.f cc = false → exec (.retCond cc) s = .next s))

/-- R181, R182: `pop` and `push` of BC, DE, HL, AF. -/
def Obligations.PopAndPushPairs : Prop :=
  (∀ r : R16Stk, Encodes [0b11#2 ++ r.bits ++ 0b0001#4] (.popR16Stk r) ∧
    Encodes [0b11#2 ++ r.bits ++ 0b0101#4] (.pushR16Stk r)) ∧
  (∀ s : State,
    let lo := memRead s s.sp
    let hi := memRead lo.2 (s.sp + 1)
    let popped : State := { hi.2 with sp := s.sp + 2 }
    exec (.popR16Stk .bc) s = .next { popped with b := hi.1, c := lo.1 } ∧
    exec (.popR16Stk .de) s = .next { popped with d := hi.1, e := lo.1 } ∧
    exec (.popR16Stk .hl) s = .next { popped with h := hi.1, l := lo.1 } ∧
    exec (.popR16Stk .af) s = .next { popped with
      a := hi.1, f := ⟨lo.1.getLsbD 7, lo.1.getLsbD 6, lo.1.getLsbD 5, lo.1.getLsbD 4⟩ }) ∧
  (∀ s : State,
    let pushed (hi lo : Byte) : State := { memWrite (memWrite s (s.sp - 1) hi) (s.sp - 2) lo with sp := s.sp - 2 }
    exec (.pushR16Stk .bc) s = .next (pushed s.b s.c) ∧
    exec (.pushR16Stk .de) s = .next (pushed s.d s.e) ∧
    exec (.pushR16Stk .hl) s = .next (pushed s.h s.l) ∧
    exec (.pushR16Stk .af) s = .next (pushed s.a s.f.toByte))

/-- R184 to R189: A to and from the high page, at `HIGH_BASE` plus an unsigned byte, and absolute addresses. That
`HIGH_BASE` plus a byte is 0xFF before the byte is so at its reference value, which the spec presumes (log entry 12). -/
def Obligations.LoadsOfA : Prop :=
  (∀ off : Byte, Params.reference.highBase + zext16 off = 0xFF#8 ++ off) ∧
  Encodes [0xE2] .ldhCA ∧ Encodes [0xF2] .ldhAC ∧
  (∀ off : Byte, Encodes [0xE0, off] (.ldhImm8A off) ∧ Encodes [0xF0, off] (.ldhAImm8 off)) ∧
  (∀ lo hi : Byte, Encodes [0xEA, lo, hi] (.ldImm16A (hi ++ lo)) ∧ Encodes [0xFA, lo, hi] (.ldAImm16 (hi ++ lo))) ∧
  ∀ s : State,
    let high (off : Byte) : Word := BitVec.ofNat 16 (s.params.highBase.toNat + off.toNat)
    let loaded (addr : Word) : State := { (memRead s addr).2 with a := (memRead s addr).1 }
    exec .ldhCA s = .next (memWrite s (high s.c) s.a) ∧
    (∀ off : Byte, exec (.ldhImm8A off) s = .next (memWrite s (high off) s.a)) ∧
    (∀ addr : Word, exec (.ldImm16A addr) s = .next (memWrite s addr s.a)) ∧
    exec .ldhAC s = .next (loaded (high s.c)) ∧
    (∀ off : Byte, exec (.ldhAImm8 off) s = .next (loaded (high off))) ∧
    (∀ addr : Word, exec (.ldAImm16 addr) s = .next (loaded addr))

/-- R190, R191, R192: SP plus a signed byte, with H and C from the unsigned addition to SP's low byte; and `ld sp, hl`. -/
def Obligations.StackPointerArithmetic : Prop :=
  (∀ e : Byte, Encodes [0xE8, e] (.addSpImm8 e) ∧ Encodes [0xF8, e] (.ldHlSpImm8 e)) ∧ Encodes [0xF9] .ldSpHl ∧
  ∀ s : State,
    (∀ e : Byte,
      let sum : Word := BitVec.ofInt 16 (s.sp.toNat + e.toInt)
      let flags : Flags :=
        ⟨false, false, decide (15 < s.sp.toNat % 16 + e.toNat % 16), decide (255 < s.sp.toNat % 256 + e.toNat)⟩
      exec (.addSpImm8 e) s = .next { s with sp := sum, f := flags } ∧
      exec (.ldHlSpImm8 e) s = .next { s with h := hiByte sum, l := loByte sum, f := flags }) ∧
    exec .ldSpHl s = .next { s with sp := s.h ++ s.l }

/-- R193, R194, R225: `di` clears IME and `ei_pending`, so that the step after it cannot dispatch; `ei` sets `ei_pending`
and leaves IME. -/
def Obligations.DiAndEi : Prop :=
  Encodes [0xF3] .di ∧ Encodes [0xFB] .ei ∧
  (∀ s : State, exec .di s = .next { s with ime := false, eiPending := false }) ∧
  (∀ s : State, exec .ei s = .next { s with eiPending := true }) ∧
  (∀ s t : State,
    let u := platformAct s
    u.mode = .running → (u.ime = false ∨ u.pending = 0) → (fetchInstr u).1 = .di → step s = .next t →
    t.ime = false ∧ t.eiPending = false ∧ t.mode = .running ∧ step t = executeOne (platformAct t))

/-! ## The $CB page -/

/-- R201 to R208: the rotates, shifts and `swap` of a register or of the byte at HL. -/
def Obligations.CbRotatesAndShifts : Prop :=
  ∀ (o : R8) (s : State),
    let v := (readR8 s o).1
    let result (r : Byte) (carry : Bool) : Result :=
      .next { writeR8 (readR8 s o).2 o r with f := ⟨decide (r = 0), false, false, carry⟩ }
    (Encodes [0xCB, 0b00000#5 ++ o.bits] (.rlcR8 o) ∧ Encodes [0xCB, 0b00001#5 ++ o.bits] (.rrcR8 o) ∧
      Encodes [0xCB, 0b00010#5 ++ o.bits] (.rlR8 o) ∧ Encodes [0xCB, 0b00011#5 ++ o.bits] (.rrR8 o) ∧
      Encodes [0xCB, 0b00100#5 ++ o.bits] (.slaR8 o) ∧ Encodes [0xCB, 0b00101#5 ++ o.bits] (.sraR8 o) ∧
      Encodes [0xCB, 0b00110#5 ++ o.bits] (.swapR8 o) ∧ Encodes [0xCB, 0b00111#5 ++ o.bits] (.srlR8 o)) ∧
    exec (.rlcR8 o) s = result (v.rotateLeft 1) (v.getLsbD 7) ∧
    exec (.rrcR8 o) s = result (v.rotateRight 1) (v.getLsbD 0) ∧
    exec (.rlR8 o) s = result (BitVec.ofNat 8 ((2 * v.toNat + s.f.c.toNat) % 256)) (v.getLsbD 7) ∧
    exec (.rrR8 o) s = result (BitVec.ofNat 8 (v.toNat / 2 + 128 * s.f.c.toNat)) (v.getLsbD 0) ∧
    exec (.slaR8 o) s = result (v <<< 1) (v.getLsbD 7) ∧
    exec (.sraR8 o) s = result (v.sshiftRight 1) (v.getLsbD 0) ∧
    exec (.swapR8 o) s = result (v.rotateLeft 4) false ∧
    exec (.srlR8 o) s = result (v >>> 1) (v.getLsbD 0)

/-- R209, R210, R211: `bit`, `res`, `set`. -/
def Obligations.BitResSet : Prop :=
  ∀ (b : BitVec 3) (o : R8) (s : State),
    let v := (readR8 s o).1
    let w := (readR8 s o).2
    (Encodes [0xCB, 0b01#2 ++ b ++ o.bits] (.bitB3R8 b o) ∧ Encodes [0xCB, 0b10#2 ++ b ++ o.bits] (.resB3R8 b o) ∧
      Encodes [0xCB, 0b11#2 ++ b ++ o.bits] (.setB3R8 b o)) ∧
    exec (.bitB3R8 b o) s = .next { w with f := ⟨!v.getLsbD b.toNat, false, true, s.f.c⟩ } ∧
    (∃ r : Byte, exec (.resB3R8 b o) s = .next (writeR8 w o r) ∧
      ∀ k, r.getLsbD k = (v.getLsbD k && decide (k ≠ b.toNat))) ∧
    (∃ r : Byte, exec (.setB3R8 b o) s = .next (writeR8 w o r) ∧
      ∀ k, r.getLsbD k = (v.getLsbD k || decide (k = b.toNat)))

/-! ## What every instruction leaves unchanged -/

/-- R22 to R24, R28: an instruction writes no register but those listed for it, and each flag it writes is written as the
table of R28 says: kept, cleared, set, or computed. -/
def Obligations.FrameRegistersAndFlags : Prop :=
  ∀ (i : Instr) (s t : State), exec i s = .next t →
    (∀ r : Reg, r ∉ dests i → t.reg r = s.reg r) ∧ (flagRow i).allows s.f t.f = true

/-- R51, R62: an instruction changes no byte but those at the addresses it stores to, which are computed as its meaning
computes them, and no interrupt register but by a store to its address. -/
def Obligations.FrameMemory : Prop :=
  ∀ (i : Instr) (s t : State), exec i s = .next t →
    (∀ addr : Word, addr ∉ stores s i → t.byteAt addr = s.byteAt addr) ∧
    (s.params.ieAddr ∉ stores s i → t.ie = s.ie) ∧
    (s.params.ifAddr ∉ stores s i → t.iflag = s.iflag ∧ t.ifUpper = s.ifUpper)

/-- R30, R33, R38, R39, R40: which instructions can change PC (beyond its advance in the fetch), IME, `ei_pending`,
`halt_bug` and the mode; none changes a parameter (R7). A `stop` changes PC only as an account of it in the parameters
makes it read its padding byte again (log entry 15). -/
def Obligations.FrameControl : Prop :=
  ∀ (i : Instr) (s t : State), exec i s = .next t →
    (isControlTransfer i = false →
      (∀ pad, i = .stop pad → ∀ e, s.stopAccount pad = some e → e.rereadsPad = false) → t.pc = s.pc) ∧
    (i ≠ .di → i ≠ .reti → t.ime = s.ime) ∧
    (i ≠ .di → i ≠ .reti → i ≠ .ei → t.eiPending = s.eiPending) ∧
    (i ≠ .halt → t.haltBug = s.haltBug) ∧
    (i ≠ .halt → (∀ pad, i ≠ .stop pad) → isInvalid i = false → t.mode = s.mode) ∧
    t.params = s.params

/-- R51, R52, R53: an instruction accesses the bus, its fetch apart, at no address but those it loads from and stores to:
what Platform has newly seen are reads at addresses loaded from and writes at addresses stored to, each of them Platform's;
where Platform owns none of these addresses, it sees nothing. That Platform's map and signal and its coming actions do not
change within an instruction is the model's choice (log entries 6, 9). -/
def Obligations.BusAccesses : Prop :=
  ∀ (i : Instr) (s t : State), exec i s = .next t →
    (∃ evs : List BusEvent, t.plat = { s.plat with history := evs ++ s.plat.history } ∧
      ∀ ev ∈ evs,
        (∃ addr, ev = .read addr ∧ addr ∈ loads s i ∧ s.place addr = .platform) ∨
        (∃ addr v, ev = .write addr v ∧ addr ∈ stores s i ∧ s.place addr = .platform)) ∧
    ((∀ addr, addr ∈ loads s i ∨ addr ∈ stores s i → s.place addr ≠ .platform) → t.plat = s.plat)

/-- R277 ("The range is 4 to 24 T-states"): every instruction but the invalid opcodes takes a whole number of machine
cycles, from 1 to 6. -/
def Obligations.DurationRange : Prop :=
  ∀ (f : Flags) (i : Instr),
    if isInvalid i then tStates f i = none
    else ∃ m, tStates f i = some (4 * m) ∧ 1 ≤ m ∧ m ≤ 6

end Statements
end

