-- ==== Sys2Proof/Laws/State.lean ====
section
/-! SUPPORT. One lemma per field per named update of State, each true by rfl, so that later proofs unfold no record update:
what an update leaves alone, and what it writes. -/
namespace Sys2Proof.Machine

/-! ### setAF -/

@[simp] theorem setAF_a (s : State) (v : Word) : (s.setAF v).a = hiByte v := rfl
@[simp] theorem setAF_b (s : State) (v : Word) : (s.setAF v).b = s.b := rfl
@[simp] theorem setAF_c (s : State) (v : Word) : (s.setAF v).c = s.c := rfl
@[simp] theorem setAF_d (s : State) (v : Word) : (s.setAF v).d = s.d := rfl
@[simp] theorem setAF_e (s : State) (v : Word) : (s.setAF v).e = s.e := rfl
@[simp] theorem setAF_h (s : State) (v : Word) : (s.setAF v).h = s.h := rfl
@[simp] theorem setAF_l (s : State) (v : Word) : (s.setAF v).l = s.l := rfl
@[simp] theorem setAF_f (s : State) (v : Word) : (s.setAF v).f = Flags.ofByte (loByte v) := rfl
@[simp] theorem setAF_sp (s : State) (v : Word) : (s.setAF v).sp = s.sp := rfl
@[simp] theorem setAF_pc (s : State) (v : Word) : (s.setAF v).pc = s.pc := rfl
@[simp] theorem setAF_ime (s : State) (v : Word) : (s.setAF v).ime = s.ime := rfl
@[simp] theorem setAF_eiPending (s : State) (v : Word) : (s.setAF v).eiPending = s.eiPending := rfl
@[simp] theorem setAF_haltBug (s : State) (v : Word) : (s.setAF v).haltBug = s.haltBug := rfl
@[simp] theorem setAF_mode (s : State) (v : Word) : (s.setAF v).mode = s.mode := rfl
@[simp] theorem setAF_params (s : State) (v : Word) : (s.setAF v).params = s.params := rfl
@[simp] theorem setAF_ie (s : State) (v : Word) : (s.setAF v).ie = s.ie := rfl
@[simp] theorem setAF_iflag (s : State) (v : Word) : (s.setAF v).iflag = s.iflag := rfl
@[simp] theorem setAF_ifUpper (s : State) (v : Word) : (s.setAF v).ifUpper = s.ifUpper := rfl
@[simp] theorem setAF_mem (s : State) (v : Word) : (s.setAF v).mem = s.mem := rfl
@[simp] theorem setAF_plat (s : State) (v : Word) : (s.setAF v).plat = s.plat := rfl

/-! ### setBC -/

@[simp] theorem setBC_a (s : State) (v : Word) : (s.setBC v).a = s.a := rfl
@[simp] theorem setBC_b (s : State) (v : Word) : (s.setBC v).b = hiByte v := rfl
@[simp] theorem setBC_c (s : State) (v : Word) : (s.setBC v).c = loByte v := rfl
@[simp] theorem setBC_d (s : State) (v : Word) : (s.setBC v).d = s.d := rfl
@[simp] theorem setBC_e (s : State) (v : Word) : (s.setBC v).e = s.e := rfl
@[simp] theorem setBC_h (s : State) (v : Word) : (s.setBC v).h = s.h := rfl
@[simp] theorem setBC_l (s : State) (v : Word) : (s.setBC v).l = s.l := rfl
@[simp] theorem setBC_f (s : State) (v : Word) : (s.setBC v).f = s.f := rfl
@[simp] theorem setBC_sp (s : State) (v : Word) : (s.setBC v).sp = s.sp := rfl
@[simp] theorem setBC_pc (s : State) (v : Word) : (s.setBC v).pc = s.pc := rfl
@[simp] theorem setBC_ime (s : State) (v : Word) : (s.setBC v).ime = s.ime := rfl
@[simp] theorem setBC_eiPending (s : State) (v : Word) : (s.setBC v).eiPending = s.eiPending := rfl
@[simp] theorem setBC_haltBug (s : State) (v : Word) : (s.setBC v).haltBug = s.haltBug := rfl
@[simp] theorem setBC_mode (s : State) (v : Word) : (s.setBC v).mode = s.mode := rfl
@[simp] theorem setBC_params (s : State) (v : Word) : (s.setBC v).params = s.params := rfl
@[simp] theorem setBC_ie (s : State) (v : Word) : (s.setBC v).ie = s.ie := rfl
@[simp] theorem setBC_iflag (s : State) (v : Word) : (s.setBC v).iflag = s.iflag := rfl
@[simp] theorem setBC_ifUpper (s : State) (v : Word) : (s.setBC v).ifUpper = s.ifUpper := rfl
@[simp] theorem setBC_mem (s : State) (v : Word) : (s.setBC v).mem = s.mem := rfl
@[simp] theorem setBC_plat (s : State) (v : Word) : (s.setBC v).plat = s.plat := rfl

/-! ### setDE -/

@[simp] theorem setDE_a (s : State) (v : Word) : (s.setDE v).a = s.a := rfl
@[simp] theorem setDE_b (s : State) (v : Word) : (s.setDE v).b = s.b := rfl
@[simp] theorem setDE_c (s : State) (v : Word) : (s.setDE v).c = s.c := rfl
@[simp] theorem setDE_d (s : State) (v : Word) : (s.setDE v).d = hiByte v := rfl
@[simp] theorem setDE_e (s : State) (v : Word) : (s.setDE v).e = loByte v := rfl
@[simp] theorem setDE_h (s : State) (v : Word) : (s.setDE v).h = s.h := rfl
@[simp] theorem setDE_l (s : State) (v : Word) : (s.setDE v).l = s.l := rfl
@[simp] theorem setDE_f (s : State) (v : Word) : (s.setDE v).f = s.f := rfl
@[simp] theorem setDE_sp (s : State) (v : Word) : (s.setDE v).sp = s.sp := rfl
@[simp] theorem setDE_pc (s : State) (v : Word) : (s.setDE v).pc = s.pc := rfl
@[simp] theorem setDE_ime (s : State) (v : Word) : (s.setDE v).ime = s.ime := rfl
@[simp] theorem setDE_eiPending (s : State) (v : Word) : (s.setDE v).eiPending = s.eiPending := rfl
@[simp] theorem setDE_haltBug (s : State) (v : Word) : (s.setDE v).haltBug = s.haltBug := rfl
@[simp] theorem setDE_mode (s : State) (v : Word) : (s.setDE v).mode = s.mode := rfl
@[simp] theorem setDE_params (s : State) (v : Word) : (s.setDE v).params = s.params := rfl
@[simp] theorem setDE_ie (s : State) (v : Word) : (s.setDE v).ie = s.ie := rfl
@[simp] theorem setDE_iflag (s : State) (v : Word) : (s.setDE v).iflag = s.iflag := rfl
@[simp] theorem setDE_ifUpper (s : State) (v : Word) : (s.setDE v).ifUpper = s.ifUpper := rfl
@[simp] theorem setDE_mem (s : State) (v : Word) : (s.setDE v).mem = s.mem := rfl
@[simp] theorem setDE_plat (s : State) (v : Word) : (s.setDE v).plat = s.plat := rfl

/-! ### setHL -/

@[simp] theorem setHL_a (s : State) (v : Word) : (s.setHL v).a = s.a := rfl
@[simp] theorem setHL_b (s : State) (v : Word) : (s.setHL v).b = s.b := rfl
@[simp] theorem setHL_c (s : State) (v : Word) : (s.setHL v).c = s.c := rfl
@[simp] theorem setHL_d (s : State) (v : Word) : (s.setHL v).d = s.d := rfl
@[simp] theorem setHL_e (s : State) (v : Word) : (s.setHL v).e = s.e := rfl
@[simp] theorem setHL_h (s : State) (v : Word) : (s.setHL v).h = hiByte v := rfl
@[simp] theorem setHL_l (s : State) (v : Word) : (s.setHL v).l = loByte v := rfl
@[simp] theorem setHL_f (s : State) (v : Word) : (s.setHL v).f = s.f := rfl
@[simp] theorem setHL_sp (s : State) (v : Word) : (s.setHL v).sp = s.sp := rfl
@[simp] theorem setHL_pc (s : State) (v : Word) : (s.setHL v).pc = s.pc := rfl
@[simp] theorem setHL_ime (s : State) (v : Word) : (s.setHL v).ime = s.ime := rfl
@[simp] theorem setHL_eiPending (s : State) (v : Word) : (s.setHL v).eiPending = s.eiPending := rfl
@[simp] theorem setHL_haltBug (s : State) (v : Word) : (s.setHL v).haltBug = s.haltBug := rfl
@[simp] theorem setHL_mode (s : State) (v : Word) : (s.setHL v).mode = s.mode := rfl
@[simp] theorem setHL_params (s : State) (v : Word) : (s.setHL v).params = s.params := rfl
@[simp] theorem setHL_ie (s : State) (v : Word) : (s.setHL v).ie = s.ie := rfl
@[simp] theorem setHL_iflag (s : State) (v : Word) : (s.setHL v).iflag = s.iflag := rfl
@[simp] theorem setHL_ifUpper (s : State) (v : Word) : (s.setHL v).ifUpper = s.ifUpper := rfl
@[simp] theorem setHL_mem (s : State) (v : Word) : (s.setHL v).mem = s.mem := rfl
@[simp] theorem setHL_plat (s : State) (v : Word) : (s.setHL v).plat = s.plat := rfl

/-! ### setAAndF -/

@[simp] theorem setAAndF_a (s : State) (out : Byte × Flags) : (setAAndF s out).a = out.1 := rfl
@[simp] theorem setAAndF_b (s : State) (out : Byte × Flags) : (setAAndF s out).b = s.b := rfl
@[simp] theorem setAAndF_c (s : State) (out : Byte × Flags) : (setAAndF s out).c = s.c := rfl
@[simp] theorem setAAndF_d (s : State) (out : Byte × Flags) : (setAAndF s out).d = s.d := rfl
@[simp] theorem setAAndF_e (s : State) (out : Byte × Flags) : (setAAndF s out).e = s.e := rfl
@[simp] theorem setAAndF_h (s : State) (out : Byte × Flags) : (setAAndF s out).h = s.h := rfl
@[simp] theorem setAAndF_l (s : State) (out : Byte × Flags) : (setAAndF s out).l = s.l := rfl
@[simp] theorem setAAndF_f (s : State) (out : Byte × Flags) : (setAAndF s out).f = out.2 := rfl
@[simp] theorem setAAndF_sp (s : State) (out : Byte × Flags) : (setAAndF s out).sp = s.sp := rfl
@[simp] theorem setAAndF_pc (s : State) (out : Byte × Flags) : (setAAndF s out).pc = s.pc := rfl
@[simp] theorem setAAndF_ime (s : State) (out : Byte × Flags) : (setAAndF s out).ime = s.ime := rfl
@[simp] theorem setAAndF_eiPending (s : State) (out : Byte × Flags) : (setAAndF s out).eiPending = s.eiPending := rfl
@[simp] theorem setAAndF_haltBug (s : State) (out : Byte × Flags) : (setAAndF s out).haltBug = s.haltBug := rfl
@[simp] theorem setAAndF_mode (s : State) (out : Byte × Flags) : (setAAndF s out).mode = s.mode := rfl
@[simp] theorem setAAndF_params (s : State) (out : Byte × Flags) : (setAAndF s out).params = s.params := rfl
@[simp] theorem setAAndF_ie (s : State) (out : Byte × Flags) : (setAAndF s out).ie = s.ie := rfl
@[simp] theorem setAAndF_iflag (s : State) (out : Byte × Flags) : (setAAndF s out).iflag = s.iflag := rfl
@[simp] theorem setAAndF_ifUpper (s : State) (out : Byte × Flags) : (setAAndF s out).ifUpper = s.ifUpper := rfl
@[simp] theorem setAAndF_mem (s : State) (out : Byte × Flags) : (setAAndF s out).mem = s.mem := rfl
@[simp] theorem setAAndF_plat (s : State) (out : Byte × Flags) : (setAAndF s out).plat = s.plat := rfl

/-! ### hardLock -/

@[simp] theorem hardLock_a (s : State) : (hardLock s).a = s.a := rfl
@[simp] theorem hardLock_b (s : State) : (hardLock s).b = s.b := rfl
@[simp] theorem hardLock_c (s : State) : (hardLock s).c = s.c := rfl
@[simp] theorem hardLock_d (s : State) : (hardLock s).d = s.d := rfl
@[simp] theorem hardLock_e (s : State) : (hardLock s).e = s.e := rfl
@[simp] theorem hardLock_h (s : State) : (hardLock s).h = s.h := rfl
@[simp] theorem hardLock_l (s : State) : (hardLock s).l = s.l := rfl
@[simp] theorem hardLock_f (s : State) : (hardLock s).f = s.f := rfl
@[simp] theorem hardLock_sp (s : State) : (hardLock s).sp = s.sp := rfl
@[simp] theorem hardLock_pc (s : State) : (hardLock s).pc = s.pc := rfl
@[simp] theorem hardLock_ime (s : State) : (hardLock s).ime = s.ime := rfl
@[simp] theorem hardLock_eiPending (s : State) : (hardLock s).eiPending = s.eiPending := rfl
@[simp] theorem hardLock_haltBug (s : State) : (hardLock s).haltBug = s.haltBug := rfl
@[simp] theorem hardLock_mode (s : State) : (hardLock s).mode = Mode.locked := rfl
@[simp] theorem hardLock_params (s : State) : (hardLock s).params = s.params := rfl
@[simp] theorem hardLock_ie (s : State) : (hardLock s).ie = s.ie := rfl
@[simp] theorem hardLock_iflag (s : State) : (hardLock s).iflag = s.iflag := rfl
@[simp] theorem hardLock_ifUpper (s : State) : (hardLock s).ifUpper = s.ifUpper := rfl
@[simp] theorem hardLock_mem (s : State) : (hardLock s).mem = s.mem := rfl
@[simp] theorem hardLock_plat (s : State) : (hardLock s).plat = s.plat := rfl

/-! ### jumpRelative -/

@[simp] theorem jumpRelative_a (s : State) (e : Byte) : (jumpRelative s e).a = s.a := rfl
@[simp] theorem jumpRelative_b (s : State) (e : Byte) : (jumpRelative s e).b = s.b := rfl
@[simp] theorem jumpRelative_c (s : State) (e : Byte) : (jumpRelative s e).c = s.c := rfl
@[simp] theorem jumpRelative_d (s : State) (e : Byte) : (jumpRelative s e).d = s.d := rfl
@[simp] theorem jumpRelative_e (s : State) (e : Byte) : (jumpRelative s e).e = s.e := rfl
@[simp] theorem jumpRelative_h (s : State) (e : Byte) : (jumpRelative s e).h = s.h := rfl
@[simp] theorem jumpRelative_l (s : State) (e : Byte) : (jumpRelative s e).l = s.l := rfl
@[simp] theorem jumpRelative_f (s : State) (e : Byte) : (jumpRelative s e).f = s.f := rfl
@[simp] theorem jumpRelative_sp (s : State) (e : Byte) : (jumpRelative s e).sp = s.sp := rfl
@[simp] theorem jumpRelative_pc (s : State) (e : Byte) : (jumpRelative s e).pc = s.pc + sext16 e := rfl
@[simp] theorem jumpRelative_ime (s : State) (e : Byte) : (jumpRelative s e).ime = s.ime := rfl
@[simp] theorem jumpRelative_eiPending (s : State) (e : Byte) : (jumpRelative s e).eiPending = s.eiPending := rfl
@[simp] theorem jumpRelative_haltBug (s : State) (e : Byte) : (jumpRelative s e).haltBug = s.haltBug := rfl
@[simp] theorem jumpRelative_mode (s : State) (e : Byte) : (jumpRelative s e).mode = s.mode := rfl
@[simp] theorem jumpRelative_params (s : State) (e : Byte) : (jumpRelative s e).params = s.params := rfl
@[simp] theorem jumpRelative_ie (s : State) (e : Byte) : (jumpRelative s e).ie = s.ie := rfl
@[simp] theorem jumpRelative_iflag (s : State) (e : Byte) : (jumpRelative s e).iflag = s.iflag := rfl
@[simp] theorem jumpRelative_ifUpper (s : State) (e : Byte) : (jumpRelative s e).ifUpper = s.ifUpper := rfl
@[simp] theorem jumpRelative_mem (s : State) (e : Byte) : (jumpRelative s e).mem = s.mem := rfl
@[simp] theorem jumpRelative_plat (s : State) (e : Byte) : (jumpRelative s e).plat = s.plat := rfl

/-! ### applyStop -/

@[simp] theorem applyStop_a (s : State) (e : StopEffect) : (applyStop s e).a = s.a := rfl
@[simp] theorem applyStop_b (s : State) (e : StopEffect) : (applyStop s e).b = s.b := rfl
@[simp] theorem applyStop_c (s : State) (e : StopEffect) : (applyStop s e).c = s.c := rfl
@[simp] theorem applyStop_d (s : State) (e : StopEffect) : (applyStop s e).d = s.d := rfl
@[simp] theorem applyStop_e (s : State) (e : StopEffect) : (applyStop s e).e = s.e := rfl
@[simp] theorem applyStop_h (s : State) (e : StopEffect) : (applyStop s e).h = s.h := rfl
@[simp] theorem applyStop_l (s : State) (e : StopEffect) : (applyStop s e).l = s.l := rfl
@[simp] theorem applyStop_f (s : State) (e : StopEffect) : (applyStop s e).f = s.f := rfl
@[simp] theorem applyStop_sp (s : State) (e : StopEffect) : (applyStop s e).sp = s.sp := rfl
@[simp] theorem applyStop_pc (s : State) (e : StopEffect) : (applyStop s e).pc = if e.rereadsPad then s.pc - 1 else s.pc := rfl
@[simp] theorem applyStop_ime (s : State) (e : StopEffect) : (applyStop s e).ime = s.ime := rfl
@[simp] theorem applyStop_eiPending (s : State) (e : StopEffect) : (applyStop s e).eiPending = s.eiPending := rfl
@[simp] theorem applyStop_haltBug (s : State) (e : StopEffect) : (applyStop s e).haltBug = s.haltBug := rfl
@[simp] theorem applyStop_mode (s : State) (e : StopEffect) : (applyStop s e).mode = e.mode := rfl
@[simp] theorem applyStop_ie (s : State) (e : StopEffect) : (applyStop s e).ie = s.ie := rfl
@[simp] theorem applyStop_iflag (s : State) (e : StopEffect) : (applyStop s e).iflag = s.iflag := rfl
@[simp] theorem applyStop_ifUpper (s : State) (e : StopEffect) : (applyStop s e).ifUpper = s.ifUpper := rfl
@[simp] theorem applyStop_mem (s : State) (e : StopEffect) : (applyStop s e).mem = s.mem := rfl
@[simp] theorem applyStop_plat (s : State) (e : StopEffect) : (applyStop s e).plat = s.plat := rfl
@[simp] theorem applyStop_params (s : State) (e : StopEffect) : (applyStop s e).params = s.params := rfl

/-! ### memRead -/

@[simp] theorem memRead_a (s : State) (addr : Word) : (memRead s addr).2.a = s.a := rfl
@[simp] theorem memRead_b (s : State) (addr : Word) : (memRead s addr).2.b = s.b := rfl
@[simp] theorem memRead_c (s : State) (addr : Word) : (memRead s addr).2.c = s.c := rfl
@[simp] theorem memRead_d (s : State) (addr : Word) : (memRead s addr).2.d = s.d := rfl
@[simp] theorem memRead_e (s : State) (addr : Word) : (memRead s addr).2.e = s.e := rfl
@[simp] theorem memRead_h (s : State) (addr : Word) : (memRead s addr).2.h = s.h := rfl
@[simp] theorem memRead_l (s : State) (addr : Word) : (memRead s addr).2.l = s.l := rfl
@[simp] theorem memRead_f (s : State) (addr : Word) : (memRead s addr).2.f = s.f := rfl
@[simp] theorem memRead_sp (s : State) (addr : Word) : (memRead s addr).2.sp = s.sp := rfl
@[simp] theorem memRead_pc (s : State) (addr : Word) : (memRead s addr).2.pc = s.pc := rfl
@[simp] theorem memRead_ime (s : State) (addr : Word) : (memRead s addr).2.ime = s.ime := rfl
@[simp] theorem memRead_eiPending (s : State) (addr : Word) : (memRead s addr).2.eiPending = s.eiPending := rfl
@[simp] theorem memRead_haltBug (s : State) (addr : Word) : (memRead s addr).2.haltBug = s.haltBug := rfl
@[simp] theorem memRead_mode (s : State) (addr : Word) : (memRead s addr).2.mode = s.mode := rfl
@[simp] theorem memRead_params (s : State) (addr : Word) : (memRead s addr).2.params = s.params := rfl
@[simp] theorem memRead_ie (s : State) (addr : Word) : (memRead s addr).2.ie = s.ie := rfl
@[simp] theorem memRead_iflag (s : State) (addr : Word) : (memRead s addr).2.iflag = s.iflag := rfl
@[simp] theorem memRead_ifUpper (s : State) (addr : Word) : (memRead s addr).2.ifUpper = s.ifUpper := rfl
@[simp] theorem memRead_mem (s : State) (addr : Word) : (memRead s addr).2.mem = s.mem := rfl

/-! ### memWrite -/

@[simp] theorem memWrite_a (s : State) (addr : Word) (v : Byte) : (memWrite s addr v).a = s.a := rfl
@[simp] theorem memWrite_b (s : State) (addr : Word) (v : Byte) : (memWrite s addr v).b = s.b := rfl
@[simp] theorem memWrite_c (s : State) (addr : Word) (v : Byte) : (memWrite s addr v).c = s.c := rfl
@[simp] theorem memWrite_d (s : State) (addr : Word) (v : Byte) : (memWrite s addr v).d = s.d := rfl
@[simp] theorem memWrite_e (s : State) (addr : Word) (v : Byte) : (memWrite s addr v).e = s.e := rfl
@[simp] theorem memWrite_h (s : State) (addr : Word) (v : Byte) : (memWrite s addr v).h = s.h := rfl
@[simp] theorem memWrite_l (s : State) (addr : Word) (v : Byte) : (memWrite s addr v).l = s.l := rfl
@[simp] theorem memWrite_f (s : State) (addr : Word) (v : Byte) : (memWrite s addr v).f = s.f := rfl
@[simp] theorem memWrite_sp (s : State) (addr : Word) (v : Byte) : (memWrite s addr v).sp = s.sp := rfl
@[simp] theorem memWrite_pc (s : State) (addr : Word) (v : Byte) : (memWrite s addr v).pc = s.pc := rfl
@[simp] theorem memWrite_ime (s : State) (addr : Word) (v : Byte) : (memWrite s addr v).ime = s.ime := rfl
@[simp] theorem memWrite_eiPending (s : State) (addr : Word) (v : Byte) : (memWrite s addr v).eiPending = s.eiPending := rfl
@[simp] theorem memWrite_haltBug (s : State) (addr : Word) (v : Byte) : (memWrite s addr v).haltBug = s.haltBug := rfl
@[simp] theorem memWrite_mode (s : State) (addr : Word) (v : Byte) : (memWrite s addr v).mode = s.mode := rfl
@[simp] theorem memWrite_params (s : State) (addr : Word) (v : Byte) : (memWrite s addr v).params = s.params := rfl

/-! ### memWrite16 -/

@[simp] theorem memWrite16_a (s : State) (addr v : Word) : (memWrite16 s addr v).a = s.a := by
  simp only [memWrite16, memWrite_a]
@[simp] theorem memWrite16_b (s : State) (addr v : Word) : (memWrite16 s addr v).b = s.b := by
  simp only [memWrite16, memWrite_b]
@[simp] theorem memWrite16_c (s : State) (addr v : Word) : (memWrite16 s addr v).c = s.c := by
  simp only [memWrite16, memWrite_c]
@[simp] theorem memWrite16_d (s : State) (addr v : Word) : (memWrite16 s addr v).d = s.d := by
  simp only [memWrite16, memWrite_d]
@[simp] theorem memWrite16_e (s : State) (addr v : Word) : (memWrite16 s addr v).e = s.e := by
  simp only [memWrite16, memWrite_e]
@[simp] theorem memWrite16_h (s : State) (addr v : Word) : (memWrite16 s addr v).h = s.h := by
  simp only [memWrite16, memWrite_h]
@[simp] theorem memWrite16_l (s : State) (addr v : Word) : (memWrite16 s addr v).l = s.l := by
  simp only [memWrite16, memWrite_l]
@[simp] theorem memWrite16_f (s : State) (addr v : Word) : (memWrite16 s addr v).f = s.f := by
  simp only [memWrite16, memWrite_f]
@[simp] theorem memWrite16_sp (s : State) (addr v : Word) : (memWrite16 s addr v).sp = s.sp := by
  simp only [memWrite16, memWrite_sp]
@[simp] theorem memWrite16_pc (s : State) (addr v : Word) : (memWrite16 s addr v).pc = s.pc := by
  simp only [memWrite16, memWrite_pc]
@[simp] theorem memWrite16_ime (s : State) (addr v : Word) : (memWrite16 s addr v).ime = s.ime := by
  simp only [memWrite16, memWrite_ime]
@[simp] theorem memWrite16_eiPending (s : State) (addr v : Word) : (memWrite16 s addr v).eiPending = s.eiPending := by
  simp only [memWrite16, memWrite_eiPending]
@[simp] theorem memWrite16_haltBug (s : State) (addr v : Word) : (memWrite16 s addr v).haltBug = s.haltBug := by
  simp only [memWrite16, memWrite_haltBug]
@[simp] theorem memWrite16_mode (s : State) (addr v : Word) : (memWrite16 s addr v).mode = s.mode := by
  simp only [memWrite16, memWrite_mode]
@[simp] theorem memWrite16_params (s : State) (addr v : Word) : (memWrite16 s addr v).params = s.params := by
  simp only [memWrite16, memWrite_params]

/-! ### push16 -/

@[simp] theorem push16_a (s : State) (v : Word) : (push16 s v).a = s.a := by simp only [push16, memWrite_a]
@[simp] theorem push16_b (s : State) (v : Word) : (push16 s v).b = s.b := by simp only [push16, memWrite_b]
@[simp] theorem push16_c (s : State) (v : Word) : (push16 s v).c = s.c := by simp only [push16, memWrite_c]
@[simp] theorem push16_d (s : State) (v : Word) : (push16 s v).d = s.d := by simp only [push16, memWrite_d]
@[simp] theorem push16_e (s : State) (v : Word) : (push16 s v).e = s.e := by simp only [push16, memWrite_e]
@[simp] theorem push16_h (s : State) (v : Word) : (push16 s v).h = s.h := by simp only [push16, memWrite_h]
@[simp] theorem push16_l (s : State) (v : Word) : (push16 s v).l = s.l := by simp only [push16, memWrite_l]
@[simp] theorem push16_f (s : State) (v : Word) : (push16 s v).f = s.f := by simp only [push16, memWrite_f]
@[simp] theorem push16_sp (s : State) (v : Word) : (push16 s v).sp = s.sp - 2 := rfl
@[simp] theorem push16_pc (s : State) (v : Word) : (push16 s v).pc = s.pc := by simp only [push16, memWrite_pc]
@[simp] theorem push16_ime (s : State) (v : Word) : (push16 s v).ime = s.ime := by simp only [push16, memWrite_ime]
@[simp] theorem push16_eiPending (s : State) (v : Word) : (push16 s v).eiPending = s.eiPending := by
  simp only [push16, memWrite_eiPending]
@[simp] theorem push16_haltBug (s : State) (v : Word) : (push16 s v).haltBug = s.haltBug := by
  simp only [push16, memWrite_haltBug]
@[simp] theorem push16_mode (s : State) (v : Word) : (push16 s v).mode = s.mode := by simp only [push16, memWrite_mode]
@[simp] theorem push16_params (s : State) (v : Word) : (push16 s v).params = s.params := by simp only [push16, memWrite_params]

/-! ### pop16 -/

@[simp] theorem pop16_a (s : State) : (pop16 s).2.a = s.a := by simp only [pop16, memRead_a]
@[simp] theorem pop16_b (s : State) : (pop16 s).2.b = s.b := by simp only [pop16, memRead_b]
@[simp] theorem pop16_c (s : State) : (pop16 s).2.c = s.c := by simp only [pop16, memRead_c]
@[simp] theorem pop16_d (s : State) : (pop16 s).2.d = s.d := by simp only [pop16, memRead_d]
@[simp] theorem pop16_e (s : State) : (pop16 s).2.e = s.e := by simp only [pop16, memRead_e]
@[simp] theorem pop16_h (s : State) : (pop16 s).2.h = s.h := by simp only [pop16, memRead_h]
@[simp] theorem pop16_l (s : State) : (pop16 s).2.l = s.l := by simp only [pop16, memRead_l]
@[simp] theorem pop16_f (s : State) : (pop16 s).2.f = s.f := by simp only [pop16, memRead_f]
@[simp] theorem pop16_sp (s : State) : (pop16 s).2.sp = s.sp + 2 := rfl
@[simp] theorem pop16_pc (s : State) : (pop16 s).2.pc = s.pc := by simp only [pop16, memRead_pc]
@[simp] theorem pop16_ime (s : State) : (pop16 s).2.ime = s.ime := by simp only [pop16, memRead_ime]
@[simp] theorem pop16_eiPending (s : State) : (pop16 s).2.eiPending = s.eiPending := by
  simp only [pop16, memRead_eiPending]
@[simp] theorem pop16_haltBug (s : State) : (pop16 s).2.haltBug = s.haltBug := by simp only [pop16, memRead_haltBug]
@[simp] theorem pop16_mode (s : State) : (pop16 s).2.mode = s.mode := by simp only [pop16, memRead_mode]
@[simp] theorem pop16_params (s : State) : (pop16 s).2.params = s.params := by simp only [pop16, memRead_params]
@[simp] theorem pop16_ie (s : State) : (pop16 s).2.ie = s.ie := by simp only [pop16, memRead_ie]
@[simp] theorem pop16_iflag (s : State) : (pop16 s).2.iflag = s.iflag := by simp only [pop16, memRead_iflag]
@[simp] theorem pop16_ifUpper (s : State) : (pop16 s).2.ifUpper = s.ifUpper := by simp only [pop16, memRead_ifUpper]
@[simp] theorem pop16_mem (s : State) : (pop16 s).2.mem = s.mem := by simp only [pop16, memRead_mem]

/-! ### callTo -/

@[simp] theorem callTo_a (s : State) (target : Word) : (callTo s target).a = s.a := by simp only [callTo, push16_a]
@[simp] theorem callTo_b (s : State) (target : Word) : (callTo s target).b = s.b := by simp only [callTo, push16_b]
@[simp] theorem callTo_c (s : State) (target : Word) : (callTo s target).c = s.c := by simp only [callTo, push16_c]
@[simp] theorem callTo_d (s : State) (target : Word) : (callTo s target).d = s.d := by simp only [callTo, push16_d]
@[simp] theorem callTo_e (s : State) (target : Word) : (callTo s target).e = s.e := by simp only [callTo, push16_e]
@[simp] theorem callTo_h (s : State) (target : Word) : (callTo s target).h = s.h := by simp only [callTo, push16_h]
@[simp] theorem callTo_l (s : State) (target : Word) : (callTo s target).l = s.l := by simp only [callTo, push16_l]
@[simp] theorem callTo_f (s : State) (target : Word) : (callTo s target).f = s.f := by simp only [callTo, push16_f]
@[simp] theorem callTo_sp (s : State) (target : Word) : (callTo s target).sp = s.sp - 2 := by
  simp only [callTo, push16_sp]
@[simp] theorem callTo_pc (s : State) (target : Word) : (callTo s target).pc = target := rfl
@[simp] theorem callTo_ime (s : State) (target : Word) : (callTo s target).ime = s.ime := by
  simp only [callTo, push16_ime]
@[simp] theorem callTo_eiPending (s : State) (target : Word) : (callTo s target).eiPending = s.eiPending := by
  simp only [callTo, push16_eiPending]
@[simp] theorem callTo_haltBug (s : State) (target : Word) : (callTo s target).haltBug = s.haltBug := by
  simp only [callTo, push16_haltBug]
@[simp] theorem callTo_mode (s : State) (target : Word) : (callTo s target).mode = s.mode := by
  simp only [callTo, push16_mode]
@[simp] theorem callTo_params (s : State) (target : Word) : (callTo s target).params = s.params := by
  simp only [callTo, push16_params]

/-! ### returnFromCall -/

@[simp] theorem returnFromCall_a (s : State) : (returnFromCall s).a = s.a := by simp only [returnFromCall, pop16_a]
@[simp] theorem returnFromCall_b (s : State) : (returnFromCall s).b = s.b := by simp only [returnFromCall, pop16_b]
@[simp] theorem returnFromCall_c (s : State) : (returnFromCall s).c = s.c := by simp only [returnFromCall, pop16_c]
@[simp] theorem returnFromCall_d (s : State) : (returnFromCall s).d = s.d := by simp only [returnFromCall, pop16_d]
@[simp] theorem returnFromCall_e (s : State) : (returnFromCall s).e = s.e := by simp only [returnFromCall, pop16_e]
@[simp] theorem returnFromCall_h (s : State) : (returnFromCall s).h = s.h := by simp only [returnFromCall, pop16_h]
@[simp] theorem returnFromCall_l (s : State) : (returnFromCall s).l = s.l := by simp only [returnFromCall, pop16_l]
@[simp] theorem returnFromCall_f (s : State) : (returnFromCall s).f = s.f := by simp only [returnFromCall, pop16_f]
@[simp] theorem returnFromCall_sp (s : State) : (returnFromCall s).sp = s.sp + 2 := by
  simp only [returnFromCall, pop16_sp]
@[simp] theorem returnFromCall_pc (s : State) : (returnFromCall s).pc = (pop16 s).1 := rfl
@[simp] theorem returnFromCall_ime (s : State) : (returnFromCall s).ime = s.ime := by
  simp only [returnFromCall, pop16_ime]
@[simp] theorem returnFromCall_eiPending (s : State) : (returnFromCall s).eiPending = s.eiPending := by
  simp only [returnFromCall, pop16_eiPending]
@[simp] theorem returnFromCall_haltBug (s : State) : (returnFromCall s).haltBug = s.haltBug := by
  simp only [returnFromCall, pop16_haltBug]
@[simp] theorem returnFromCall_mode (s : State) : (returnFromCall s).mode = s.mode := by
  simp only [returnFromCall, pop16_mode]
@[simp] theorem returnFromCall_params (s : State) : (returnFromCall s).params = s.params := by
  simp only [returnFromCall, pop16_params]
@[simp] theorem returnFromCall_ie (s : State) : (returnFromCall s).ie = s.ie := by simp only [returnFromCall, pop16_ie]
@[simp] theorem returnFromCall_iflag (s : State) : (returnFromCall s).iflag = s.iflag := by
  simp only [returnFromCall, pop16_iflag]
@[simp] theorem returnFromCall_ifUpper (s : State) : (returnFromCall s).ifUpper = s.ifUpper := by
  simp only [returnFromCall, pop16_ifUpper]
@[simp] theorem returnFromCall_mem (s : State) : (returnFromCall s).mem = s.mem := by
  simp only [returnFromCall, pop16_mem]

/-! ### returnFromInterrupt -/

@[simp] theorem returnFromInterrupt_a (s : State) : (returnFromInterrupt s).a = s.a := by
  simp only [returnFromInterrupt, pop16_a]
@[simp] theorem returnFromInterrupt_b (s : State) : (returnFromInterrupt s).b = s.b := by
  simp only [returnFromInterrupt, pop16_b]
@[simp] theorem returnFromInterrupt_c (s : State) : (returnFromInterrupt s).c = s.c := by
  simp only [returnFromInterrupt, pop16_c]
@[simp] theorem returnFromInterrupt_d (s : State) : (returnFromInterrupt s).d = s.d := by
  simp only [returnFromInterrupt, pop16_d]
@[simp] theorem returnFromInterrupt_e (s : State) : (returnFromInterrupt s).e = s.e := by
  simp only [returnFromInterrupt, pop16_e]
@[simp] theorem returnFromInterrupt_h (s : State) : (returnFromInterrupt s).h = s.h := by
  simp only [returnFromInterrupt, pop16_h]
@[simp] theorem returnFromInterrupt_l (s : State) : (returnFromInterrupt s).l = s.l := by
  simp only [returnFromInterrupt, pop16_l]
@[simp] theorem returnFromInterrupt_f (s : State) : (returnFromInterrupt s).f = s.f := by
  simp only [returnFromInterrupt, pop16_f]
@[simp] theorem returnFromInterrupt_sp (s : State) : (returnFromInterrupt s).sp = s.sp + 2 := by
  simp only [returnFromInterrupt, pop16_sp]
@[simp] theorem returnFromInterrupt_pc (s : State) : (returnFromInterrupt s).pc = (pop16 s).1 := rfl
@[simp] theorem returnFromInterrupt_ime (s : State) : (returnFromInterrupt s).ime = true := rfl
@[simp] theorem returnFromInterrupt_eiPending (s : State) : (returnFromInterrupt s).eiPending = false := rfl
@[simp] theorem returnFromInterrupt_haltBug (s : State) : (returnFromInterrupt s).haltBug = s.haltBug := by
  simp only [returnFromInterrupt, pop16_haltBug]
@[simp] theorem returnFromInterrupt_mode (s : State) : (returnFromInterrupt s).mode = s.mode := by
  simp only [returnFromInterrupt, pop16_mode]
@[simp] theorem returnFromInterrupt_params (s : State) : (returnFromInterrupt s).params = s.params := by
  simp only [returnFromInterrupt, pop16_params]
@[simp] theorem returnFromInterrupt_ie (s : State) : (returnFromInterrupt s).ie = s.ie := by
  simp only [returnFromInterrupt, pop16_ie]
@[simp] theorem returnFromInterrupt_iflag (s : State) : (returnFromInterrupt s).iflag = s.iflag := by
  simp only [returnFromInterrupt, pop16_iflag]
@[simp] theorem returnFromInterrupt_ifUpper (s : State) : (returnFromInterrupt s).ifUpper = s.ifUpper := by
  simp only [returnFromInterrupt, pop16_ifUpper]
@[simp] theorem returnFromInterrupt_mem (s : State) : (returnFromInterrupt s).mem = s.mem := by
  simp only [returnFromInterrupt, pop16_mem]

/-! ### loadA -/

@[simp] theorem loadA_a (s : State) (addr : Word) : (loadA s addr).a = (memRead s addr).1 := rfl
@[simp] theorem loadA_b (s : State) (addr : Word) : (loadA s addr).b = s.b := rfl
@[simp] theorem loadA_c (s : State) (addr : Word) : (loadA s addr).c = s.c := rfl
@[simp] theorem loadA_d (s : State) (addr : Word) : (loadA s addr).d = s.d := rfl
@[simp] theorem loadA_e (s : State) (addr : Word) : (loadA s addr).e = s.e := rfl
@[simp] theorem loadA_h (s : State) (addr : Word) : (loadA s addr).h = s.h := rfl
@[simp] theorem loadA_l (s : State) (addr : Word) : (loadA s addr).l = s.l := rfl
@[simp] theorem loadA_f (s : State) (addr : Word) : (loadA s addr).f = s.f := rfl
@[simp] theorem loadA_sp (s : State) (addr : Word) : (loadA s addr).sp = s.sp := rfl
@[simp] theorem loadA_pc (s : State) (addr : Word) : (loadA s addr).pc = s.pc := rfl
@[simp] theorem loadA_ime (s : State) (addr : Word) : (loadA s addr).ime = s.ime := rfl
@[simp] theorem loadA_eiPending (s : State) (addr : Word) : (loadA s addr).eiPending = s.eiPending := rfl
@[simp] theorem loadA_haltBug (s : State) (addr : Word) : (loadA s addr).haltBug = s.haltBug := rfl
@[simp] theorem loadA_mode (s : State) (addr : Word) : (loadA s addr).mode = s.mode := rfl
@[simp] theorem loadA_params (s : State) (addr : Word) : (loadA s addr).params = s.params := rfl
@[simp] theorem loadA_ie (s : State) (addr : Word) : (loadA s addr).ie = s.ie := rfl
@[simp] theorem loadA_iflag (s : State) (addr : Word) : (loadA s addr).iflag = s.iflag := rfl
@[simp] theorem loadA_ifUpper (s : State) (addr : Word) : (loadA s addr).ifUpper = s.ifUpper := rfl
@[simp] theorem loadA_mem (s : State) (addr : Word) : (loadA s addr).mem = s.mem := rfl

/-! ### Platform.note -/

@[simp] theorem note_owned (p : Platform) (ev : BusEvent) : (p.note ev).owned = p.owned := rfl
@[simp] theorem note_joypadWake (p : Platform) (ev : BusEvent) : (p.note ev).joypadWake = p.joypadWake := rfl
@[simp] theorem note_inbox (p : Platform) (ev : BusEvent) : (p.note ev).inbox = p.inbox := rfl
@[simp] theorem note_history (p : Platform) (ev : BusEvent) : (p.note ev).history = ev :: p.history := rfl

/-! ### readR8 -/

@[simp] theorem readR8_a (s : State) (o : R8) : (readR8 s o).2.a = s.a := by
  cases o <;> rfl
@[simp] theorem readR8_b (s : State) (o : R8) : (readR8 s o).2.b = s.b := by
  cases o <;> rfl
@[simp] theorem readR8_c (s : State) (o : R8) : (readR8 s o).2.c = s.c := by
  cases o <;> rfl
@[simp] theorem readR8_d (s : State) (o : R8) : (readR8 s o).2.d = s.d := by
  cases o <;> rfl
@[simp] theorem readR8_e (s : State) (o : R8) : (readR8 s o).2.e = s.e := by
  cases o <;> rfl
@[simp] theorem readR8_h (s : State) (o : R8) : (readR8 s o).2.h = s.h := by
  cases o <;> rfl
@[simp] theorem readR8_l (s : State) (o : R8) : (readR8 s o).2.l = s.l := by
  cases o <;> rfl
@[simp] theorem readR8_f (s : State) (o : R8) : (readR8 s o).2.f = s.f := by
  cases o <;> rfl
@[simp] theorem readR8_sp (s : State) (o : R8) : (readR8 s o).2.sp = s.sp := by
  cases o <;> rfl
@[simp] theorem readR8_pc (s : State) (o : R8) : (readR8 s o).2.pc = s.pc := by
  cases o <;> rfl
@[simp] theorem readR8_ime (s : State) (o : R8) : (readR8 s o).2.ime = s.ime := by
  cases o <;> rfl
@[simp] theorem readR8_eiPending (s : State) (o : R8) : (readR8 s o).2.eiPending = s.eiPending := by
  cases o <;> rfl
@[simp] theorem readR8_haltBug (s : State) (o : R8) : (readR8 s o).2.haltBug = s.haltBug := by
  cases o <;> rfl
@[simp] theorem readR8_mode (s : State) (o : R8) : (readR8 s o).2.mode = s.mode := by
  cases o <;> rfl
@[simp] theorem readR8_params (s : State) (o : R8) : (readR8 s o).2.params = s.params := by
  cases o <;> rfl
@[simp] theorem readR8_ie (s : State) (o : R8) : (readR8 s o).2.ie = s.ie := by
  cases o <;> rfl
@[simp] theorem readR8_iflag (s : State) (o : R8) : (readR8 s o).2.iflag = s.iflag := by
  cases o <;> rfl
@[simp] theorem readR8_ifUpper (s : State) (o : R8) : (readR8 s o).2.ifUpper = s.ifUpper := by
  cases o <;> rfl
@[simp] theorem readR8_mem (s : State) (o : R8) : (readR8 s o).2.mem = s.mem := by
  cases o <;> rfl

/-! ### writeR8 -/

@[simp] theorem writeR8_f (s : State) (o : R8) (v : Byte) : (writeR8 s o v).f = s.f := by
  cases o <;> rfl
@[simp] theorem writeR8_sp (s : State) (o : R8) (v : Byte) : (writeR8 s o v).sp = s.sp := by
  cases o <;> rfl
@[simp] theorem writeR8_pc (s : State) (o : R8) (v : Byte) : (writeR8 s o v).pc = s.pc := by
  cases o <;> rfl
@[simp] theorem writeR8_ime (s : State) (o : R8) (v : Byte) : (writeR8 s o v).ime = s.ime := by
  cases o <;> rfl
@[simp] theorem writeR8_eiPending (s : State) (o : R8) (v : Byte) :
    (writeR8 s o v).eiPending = s.eiPending := by
  cases o <;> rfl
@[simp] theorem writeR8_haltBug (s : State) (o : R8) (v : Byte) :
    (writeR8 s o v).haltBug = s.haltBug := by
  cases o <;> rfl
@[simp] theorem writeR8_mode (s : State) (o : R8) (v : Byte) : (writeR8 s o v).mode = s.mode := by
  cases o <;> rfl
@[simp] theorem writeR8_params (s : State) (o : R8) (v : Byte) : (writeR8 s o v).params = s.params := by
  cases o <;> rfl

/-! ### modifyR8 -/

@[simp] theorem modifyR8_sp (s : State) (o : R8) (g : Byte → Byte × Flags) :
    (modifyR8 s o g).sp = s.sp := by
  simp only [modifyR8, writeR8_sp, readR8_sp]
@[simp] theorem modifyR8_pc (s : State) (o : R8) (g : Byte → Byte × Flags) :
    (modifyR8 s o g).pc = s.pc := by
  simp only [modifyR8, writeR8_pc, readR8_pc]
@[simp] theorem modifyR8_ime (s : State) (o : R8) (g : Byte → Byte × Flags) :
    (modifyR8 s o g).ime = s.ime := by
  simp only [modifyR8, writeR8_ime, readR8_ime]
@[simp] theorem modifyR8_eiPending (s : State) (o : R8) (g : Byte → Byte × Flags) :
    (modifyR8 s o g).eiPending = s.eiPending := by
  simp only [modifyR8, writeR8_eiPending, readR8_eiPending]
@[simp] theorem modifyR8_haltBug (s : State) (o : R8) (g : Byte → Byte × Flags) :
    (modifyR8 s o g).haltBug = s.haltBug := by
  simp only [modifyR8, writeR8_haltBug, readR8_haltBug]
@[simp] theorem modifyR8_mode (s : State) (o : R8) (g : Byte → Byte × Flags) :
    (modifyR8 s o g).mode = s.mode := by
  simp only [modifyR8, writeR8_mode, readR8_mode]
@[simp] theorem modifyR8_params (s : State) (o : R8) (g : Byte → Byte × Flags) :
    (modifyR8 s o g).params = s.params := by
  simp only [modifyR8, writeR8_params, readR8_params]
@[simp] theorem modifyR8_f (s : State) (o : R8) (g : Byte → Byte × Flags) :
    (modifyR8 s o g).f = (g (readR8 s o).1).2 := rfl

/-! ### writeR16 -/

@[simp] theorem writeR16_a (s : State) (r : R16) (v : Word) : (writeR16 s r v).a = s.a := by
  cases r <;> rfl
@[simp] theorem writeR16_f (s : State) (r : R16) (v : Word) : (writeR16 s r v).f = s.f := by
  cases r <;> rfl
@[simp] theorem writeR16_pc (s : State) (r : R16) (v : Word) : (writeR16 s r v).pc = s.pc := by
  cases r <;> rfl
@[simp] theorem writeR16_ime (s : State) (r : R16) (v : Word) : (writeR16 s r v).ime = s.ime := by
  cases r <;> rfl
@[simp] theorem writeR16_eiPending (s : State) (r : R16) (v : Word) :
    (writeR16 s r v).eiPending = s.eiPending := by
  cases r <;> rfl
@[simp] theorem writeR16_haltBug (s : State) (r : R16) (v : Word) :
    (writeR16 s r v).haltBug = s.haltBug := by
  cases r <;> rfl
@[simp] theorem writeR16_mode (s : State) (r : R16) (v : Word) : (writeR16 s r v).mode = s.mode := by
  cases r <;> rfl
@[simp] theorem writeR16_params (s : State) (r : R16) (v : Word) : (writeR16 s r v).params = s.params := by
  cases r <;> rfl
@[simp] theorem writeR16_ie (s : State) (r : R16) (v : Word) : (writeR16 s r v).ie = s.ie := by
  cases r <;> rfl
@[simp] theorem writeR16_iflag (s : State) (r : R16) (v : Word) :
    (writeR16 s r v).iflag = s.iflag := by
  cases r <;> rfl
@[simp] theorem writeR16_ifUpper (s : State) (r : R16) (v : Word) :
    (writeR16 s r v).ifUpper = s.ifUpper := by
  cases r <;> rfl
@[simp] theorem writeR16_mem (s : State) (r : R16) (v : Word) : (writeR16 s r v).mem = s.mem := by
  cases r <;> rfl
@[simp] theorem writeR16_plat (s : State) (r : R16) (v : Word) : (writeR16 s r v).plat = s.plat := by
  cases r <;> rfl

/-! ### writeR16Stk -/

@[simp] theorem writeR16Stk_sp (s : State) (r : R16Stk) (v : Word) :
    (writeR16Stk s r v).sp = s.sp := by
  cases r <;> rfl
@[simp] theorem writeR16Stk_pc (s : State) (r : R16Stk) (v : Word) :
    (writeR16Stk s r v).pc = s.pc := by
  cases r <;> rfl
@[simp] theorem writeR16Stk_ime (s : State) (r : R16Stk) (v : Word) :
    (writeR16Stk s r v).ime = s.ime := by
  cases r <;> rfl
@[simp] theorem writeR16Stk_eiPending (s : State) (r : R16Stk) (v : Word) :
    (writeR16Stk s r v).eiPending = s.eiPending := by
  cases r <;> rfl
@[simp] theorem writeR16Stk_haltBug (s : State) (r : R16Stk) (v : Word) :
    (writeR16Stk s r v).haltBug = s.haltBug := by
  cases r <;> rfl
@[simp] theorem writeR16Stk_mode (s : State) (r : R16Stk) (v : Word) :
    (writeR16Stk s r v).mode = s.mode := by
  cases r <;> rfl
@[simp] theorem writeR16Stk_params (s : State) (r : R16Stk) (v : Word) :
    (writeR16Stk s r v).params = s.params := by
  cases r <;> rfl
@[simp] theorem writeR16Stk_ie (s : State) (r : R16Stk) (v : Word) :
    (writeR16Stk s r v).ie = s.ie := by
  cases r <;> rfl
@[simp] theorem writeR16Stk_iflag (s : State) (r : R16Stk) (v : Word) :
    (writeR16Stk s r v).iflag = s.iflag := by
  cases r <;> rfl
@[simp] theorem writeR16Stk_ifUpper (s : State) (r : R16Stk) (v : Word) :
    (writeR16Stk s r v).ifUpper = s.ifUpper := by
  cases r <;> rfl
@[simp] theorem writeR16Stk_mem (s : State) (r : R16Stk) (v : Word) :
    (writeR16Stk s r v).mem = s.mem := by
  cases r <;> rfl
@[simp] theorem writeR16Stk_plat (s : State) (r : R16Stk) (v : Word) :
    (writeR16Stk s r v).plat = s.plat := by
  cases r <;> rfl

/-! ### postModify -/

@[simp] theorem postModify_a (s : State) (m : R16Mem) : (postModify s m).a = s.a := by
  cases m <;> rfl
@[simp] theorem postModify_b (s : State) (m : R16Mem) : (postModify s m).b = s.b := by
  cases m <;> rfl
@[simp] theorem postModify_c (s : State) (m : R16Mem) : (postModify s m).c = s.c := by
  cases m <;> rfl
@[simp] theorem postModify_d (s : State) (m : R16Mem) : (postModify s m).d = s.d := by
  cases m <;> rfl
@[simp] theorem postModify_e (s : State) (m : R16Mem) : (postModify s m).e = s.e := by
  cases m <;> rfl
@[simp] theorem postModify_f (s : State) (m : R16Mem) : (postModify s m).f = s.f := by
  cases m <;> rfl
@[simp] theorem postModify_sp (s : State) (m : R16Mem) : (postModify s m).sp = s.sp := by
  cases m <;> rfl
@[simp] theorem postModify_pc (s : State) (m : R16Mem) : (postModify s m).pc = s.pc := by
  cases m <;> rfl
@[simp] theorem postModify_ime (s : State) (m : R16Mem) : (postModify s m).ime = s.ime := by
  cases m <;> rfl
@[simp] theorem postModify_eiPending (s : State) (m : R16Mem) :
    (postModify s m).eiPending = s.eiPending := by
  cases m <;> rfl
@[simp] theorem postModify_haltBug (s : State) (m : R16Mem) :
    (postModify s m).haltBug = s.haltBug := by
  cases m <;> rfl
@[simp] theorem postModify_mode (s : State) (m : R16Mem) : (postModify s m).mode = s.mode := by
  cases m <;> rfl
@[simp] theorem postModify_params (s : State) (m : R16Mem) : (postModify s m).params = s.params := by
  cases m <;> rfl
@[simp] theorem postModify_ie (s : State) (m : R16Mem) : (postModify s m).ie = s.ie := by
  cases m <;> rfl
@[simp] theorem postModify_iflag (s : State) (m : R16Mem) : (postModify s m).iflag = s.iflag := by
  cases m <;> rfl
@[simp] theorem postModify_ifUpper (s : State) (m : R16Mem) : (postModify s m).ifUpper = s.ifUpper := by
  cases m <;> rfl
@[simp] theorem postModify_mem (s : State) (m : R16Mem) : (postModify s m).mem = s.mem := by
  cases m <;> rfl
@[simp] theorem postModify_plat (s : State) (m : R16Mem) : (postModify s m).plat = s.plat := by
  cases m <;> rfl

/-! ### aluR8 -/

@[simp] theorem aluR8_b (s : State) (o : R8) (op : Byte → Byte → Byte × Flags) :
    (aluR8 s o op).b = s.b := by
  simp only [aluR8, readR8_b]
@[simp] theorem aluR8_c (s : State) (o : R8) (op : Byte → Byte → Byte × Flags) :
    (aluR8 s o op).c = s.c := by
  simp only [aluR8, readR8_c]
@[simp] theorem aluR8_d (s : State) (o : R8) (op : Byte → Byte → Byte × Flags) :
    (aluR8 s o op).d = s.d := by
  simp only [aluR8, readR8_d]
@[simp] theorem aluR8_e (s : State) (o : R8) (op : Byte → Byte → Byte × Flags) :
    (aluR8 s o op).e = s.e := by
  simp only [aluR8, readR8_e]
@[simp] theorem aluR8_h (s : State) (o : R8) (op : Byte → Byte → Byte × Flags) :
    (aluR8 s o op).h = s.h := by
  simp only [aluR8, readR8_h]
@[simp] theorem aluR8_l (s : State) (o : R8) (op : Byte → Byte → Byte × Flags) :
    (aluR8 s o op).l = s.l := by
  simp only [aluR8, readR8_l]
@[simp] theorem aluR8_sp (s : State) (o : R8) (op : Byte → Byte → Byte × Flags) :
    (aluR8 s o op).sp = s.sp := by
  simp only [aluR8, readR8_sp]
@[simp] theorem aluR8_pc (s : State) (o : R8) (op : Byte → Byte → Byte × Flags) :
    (aluR8 s o op).pc = s.pc := by
  simp only [aluR8, readR8_pc]
@[simp] theorem aluR8_ime (s : State) (o : R8) (op : Byte → Byte → Byte × Flags) :
    (aluR8 s o op).ime = s.ime := by
  simp only [aluR8, readR8_ime]
@[simp] theorem aluR8_eiPending (s : State) (o : R8) (op : Byte → Byte → Byte × Flags) :
    (aluR8 s o op).eiPending = s.eiPending := by
  simp only [aluR8, readR8_eiPending]
@[simp] theorem aluR8_haltBug (s : State) (o : R8) (op : Byte → Byte → Byte × Flags) :
    (aluR8 s o op).haltBug = s.haltBug := by
  simp only [aluR8, readR8_haltBug]
@[simp] theorem aluR8_mode (s : State) (o : R8) (op : Byte → Byte → Byte × Flags) :
    (aluR8 s o op).mode = s.mode := by
  simp only [aluR8, readR8_mode]
@[simp] theorem aluR8_params (s : State) (o : R8) (op : Byte → Byte → Byte × Flags) :
    (aluR8 s o op).params = s.params := by
  simp only [aluR8, readR8_params]
@[simp] theorem aluR8_ie (s : State) (o : R8) (op : Byte → Byte → Byte × Flags) :
    (aluR8 s o op).ie = s.ie := by
  simp only [aluR8, readR8_ie]
@[simp] theorem aluR8_iflag (s : State) (o : R8) (op : Byte → Byte → Byte × Flags) :
    (aluR8 s o op).iflag = s.iflag := by
  simp only [aluR8, readR8_iflag]
@[simp] theorem aluR8_ifUpper (s : State) (o : R8) (op : Byte → Byte → Byte × Flags) :
    (aluR8 s o op).ifUpper = s.ifUpper := by
  simp only [aluR8, readR8_ifUpper]
@[simp] theorem aluR8_mem (s : State) (o : R8) (op : Byte → Byte → Byte × Flags) :
    (aluR8 s o op).mem = s.mem := by
  simp only [aluR8, readR8_mem]

/-! ### aluImm8 -/

@[simp] theorem aluImm8_b (s : State) (v : Byte) (op : Byte → Byte → Byte × Flags) : (aluImm8 s v op).b = s.b := rfl
@[simp] theorem aluImm8_c (s : State) (v : Byte) (op : Byte → Byte → Byte × Flags) : (aluImm8 s v op).c = s.c := rfl
@[simp] theorem aluImm8_d (s : State) (v : Byte) (op : Byte → Byte → Byte × Flags) : (aluImm8 s v op).d = s.d := rfl
@[simp] theorem aluImm8_e (s : State) (v : Byte) (op : Byte → Byte → Byte × Flags) : (aluImm8 s v op).e = s.e := rfl
@[simp] theorem aluImm8_h (s : State) (v : Byte) (op : Byte → Byte → Byte × Flags) : (aluImm8 s v op).h = s.h := rfl
@[simp] theorem aluImm8_l (s : State) (v : Byte) (op : Byte → Byte → Byte × Flags) : (aluImm8 s v op).l = s.l := rfl
@[simp] theorem aluImm8_sp (s : State) (v : Byte) (op : Byte → Byte → Byte × Flags) : (aluImm8 s v op).sp = s.sp := rfl
@[simp] theorem aluImm8_pc (s : State) (v : Byte) (op : Byte → Byte → Byte × Flags) : (aluImm8 s v op).pc = s.pc := rfl
@[simp] theorem aluImm8_ime (s : State) (v : Byte) (op : Byte → Byte → Byte × Flags) :
    (aluImm8 s v op).ime = s.ime := rfl
@[simp] theorem aluImm8_eiPending (s : State) (v : Byte) (op : Byte → Byte → Byte × Flags) :
    (aluImm8 s v op).eiPending = s.eiPending := rfl
@[simp] theorem aluImm8_haltBug (s : State) (v : Byte) (op : Byte → Byte → Byte × Flags) :
    (aluImm8 s v op).haltBug = s.haltBug := rfl
@[simp] theorem aluImm8_mode (s : State) (v : Byte) (op : Byte → Byte → Byte × Flags) :
    (aluImm8 s v op).mode = s.mode := rfl
@[simp] theorem aluImm8_params (s : State) (v : Byte) (op : Byte → Byte → Byte × Flags) :
    (aluImm8 s v op).params = s.params := rfl
@[simp] theorem aluImm8_ie (s : State) (v : Byte) (op : Byte → Byte → Byte × Flags) : (aluImm8 s v op).ie = s.ie := rfl
@[simp] theorem aluImm8_iflag (s : State) (v : Byte) (op : Byte → Byte → Byte × Flags) :
    (aluImm8 s v op).iflag = s.iflag := rfl
@[simp] theorem aluImm8_ifUpper (s : State) (v : Byte) (op : Byte → Byte → Byte × Flags) :
    (aluImm8 s v op).ifUpper = s.ifUpper := rfl
@[simp] theorem aluImm8_mem (s : State) (v : Byte) (op : Byte → Byte → Byte × Flags) :
    (aluImm8 s v op).mem = s.mem := rfl
@[simp] theorem aluImm8_plat (s : State) (v : Byte) (op : Byte → Byte → Byte × Flags) :
    (aluImm8 s v op).plat = s.plat := rfl

end Sys2Proof.Machine
end

