-- ==== Sys2Proof/Laws/Memory.lean ====
section
/-! SUPPORT. Plain memory: a read after a write, and the canonical form, which every memory operation keeps. -/
namespace Sys2Proof.Machine

@[simp] theorem find_insert_same (m : Memory) (n : Nat) (v : Byte) : (m.insert n v).find n = some v := by
  induction m with
  | nil => simp [Memory.insert, Memory.find]
  | cons p rest ih =>
    obtain ⟨k, u⟩ := p
    unfold Memory.insert
    split
    · simp [Memory.find]
    · split
      · simp [Memory.find]
      · rename_i h
        simp [Memory.find, Ne.symm h, ih]

theorem find_insert_other (m : Memory) {n k : Nat} (v : Byte) (h : k ≠ n) : (m.insert n v).find k = m.find k := by
  induction m with
  | nil => simp [Memory.insert, Memory.find, Ne.symm h]
  | cons p rest ih =>
    obtain ⟨j, u⟩ := p
    unfold Memory.insert
    split
    · simp [Memory.find, Ne.symm h]
    · split
      · rename_i hj
        subst hj
        simp [Memory.find, Ne.symm h]
      · simp [Memory.find, ih]

/-- R58: a read of plain memory gives the value written last. -/
@[simp] theorem read_write_same (m : Memory) (addr : Word) (v : Byte) : (m.write addr v).read addr = v := by
  simp [Memory.read, Memory.write]

/-- R58: a write of plain memory leaves every other address alone. -/
theorem read_write_other (m : Memory) {addr other : Word} (v : Byte) (h : other ≠ addr) :
    (m.write addr v).read other = m.read other := by
  simp [Memory.read, Memory.write, find_insert_other m v (fun e => h (BitVec.eq_of_toNat_eq e))]

theorem risingFrom_insert {low n : Nat} {m : Memory} (v : Byte) (hm : m.risingFrom low = true) (hl : low ≤ n)
    (hn : n < 65536) : (m.insert n v).risingFrom low = true := by
  induction m generalizing low with
  | nil => simp [Memory.insert, Memory.risingFrom, hl, hn]
  | cons p rest ih =>
    obtain ⟨k, u⟩ := p
    have hm' := hm
    simp only [Memory.risingFrom, Bool.and_eq_true, decide_eq_true_eq] at hm'
    obtain ⟨⟨h1, h2⟩, h3⟩ := hm'
    unfold Memory.insert
    split
    · simp only [Memory.risingFrom, Bool.and_eq_true, decide_eq_true_eq]
      exact ⟨⟨hl, hn⟩, ⟨by omega, h2⟩, h3⟩
    · split
      · rename_i hk
        subst hk
        simp only [Memory.risingFrom, Bool.and_eq_true, decide_eq_true_eq]
        exact ⟨⟨hl, hn⟩, h3⟩
      · simp only [Memory.risingFrom, Bool.and_eq_true, decide_eq_true_eq]
        exact ⟨⟨h1, h2⟩, ih h3 (by omega)⟩

/-- Writing plain memory keeps its canonical form. -/
theorem wf_write {m : Memory} (addr : Word) (v : Byte) (hm : m.wf = true) : (m.write addr v).wf = true :=
  risingFrom_insert v hm (Nat.zero_le _) addr.isLt

/-- Writing plain memory lists no address but the one written. -/
theorem find_write_other (m : Memory) {addr other : Word} (v : Byte) (h : other ≠ addr) :
    (m.write addr v).find other.toNat = m.find other.toNat :=
  find_insert_other m v fun e => h (BitVec.eq_of_toNat_eq e)

theorem find_below {low n : Nat} {m : Memory} (h : m.risingFrom low = true) (hn : n < low) : m.find n = none := by
  induction m generalizing low with
  | nil => rfl
  | cons p rest ih =>
    obtain ⟨k, v⟩ := p
    simp only [Memory.risingFrom, Bool.and_eq_true, decide_eq_true_eq] at h
    have hk : k ≠ n := by omega
    simp only [Memory.find, hk, if_false]
    exact ih h.2 (by omega)

/-- Two canonical memories that answer alike everywhere are the same list. -/
theorem eq_of_find_eq {low : Nat} {m m' : Memory} (h : m.risingFrom low = true) (h' : m'.risingFrom low = true)
    (he : ∀ n, m.find n = m'.find n) : m = m' := by
  induction m generalizing low m' with
  | nil =>
    cases m' with
    | nil => rfl
    | cons p rest => simpa [Memory.find] using he p.1
  | cons p rest ih =>
    obtain ⟨k, v⟩ := p
    simp only [Memory.risingFrom, Bool.and_eq_true, decide_eq_true_eq] at h
    cases m' with
    | nil => simpa [Memory.find] using he k
    | cons q rest' =>
      obtain ⟨k', v'⟩ := q
      simp only [Memory.risingFrom, Bool.and_eq_true, decide_eq_true_eq] at h'
      have hk : k = k' := by
        rcases Nat.lt_trichotomy k k' with hlt | heq | hgt
        · have := he k
          simp only [Memory.find, if_true] at this
          rw [if_neg (by omega), find_below h'.2 (by omega)] at this
          cases this
        · exact heq
        · have := he k'
          simp only [Memory.find, if_true] at this
          rw [if_neg (by omega), find_below h.2 (by omega)] at this
          cases this
      subst hk
      have hv : v = v' := by simpa [Memory.find] using he k
      subst hv
      congr 1
      refine ih h.2 h'.2 fun n => ?_
      by_cases hn : k = n
      · subst hn
        rw [find_below h.2 (by omega), find_below h'.2 (by omega)]
      · simpa [Memory.find, hn] using he n

end Sys2Proof.Machine
end

