-- ==== Sys2Proof/Laws/Ops.lean ====
section
/-! SUPPORT. For each shared operation one lemma that says everything it can do, for later proofs to cite instead of
unfolding the operation. -/
namespace Sys2Proof.Machine

/-! ## The bus -/

/-- Who answers for an address depends on the parameters and Platform's map alone. -/
theorem place_congr {s t : State} (hp : t.params = s.params) (h : t.plat.owned = s.plat.owned) (addr : Word) :
    t.place addr = s.place addr := by
  simp only [State.place, hp, h]

/-- Each of bits 7 to 5 reads as what it stores, where it is storage, or else as its constant (D16). -/
theorem UnusedBits.getLsbD_read (u : UnusedBits) (kept : BitVec 3) (k : Nat) :
    (u.read kept).getLsbD k = if u.stored.getLsbD k then kept.getLsbD k else u.value.getLsbD k := by
  simp only [UnusedBits.read, BitVec.getLsbD_or, BitVec.getLsbD_and, BitVec.getLsbD_not]
  by_cases hk : k < 3
  · cases u.stored.getLsbD k <;> simp [hk]
  · simp [hk, BitVec.getLsbD_of_ge _ _ (Nat.le_of_not_lt hk)]

/-- A write reaches those of bits 7 to 5 that are storage, and no other (D16). -/
theorem UnusedBits.getLsbD_write (u : UnusedBits) (kept written : BitVec 3) (k : Nat) :
    (u.write kept written).getLsbD k = if u.stored.getLsbD k then written.getLsbD k else kept.getLsbD k := by
  simp only [UnusedBits.write, BitVec.getLsbD_or, BitVec.getLsbD_and, BitVec.getLsbD_not]
  by_cases hk : k < 3
  · cases u.stored.getLsbD k <;> simp [hk]
  · simp [hk, BitVec.getLsbD_of_ge _ _ (Nat.le_of_not_lt hk)]

theorem extractLsb'_append_self (v : Byte) : v.extractLsb' 5 3 ++ v.extractLsb' 0 5 = v := by
  refine BitVec.eq_of_getLsbD_eq fun i hi => ?_
  simp only [BitVec.getLsbD_append, BitVec.getLsbD_extractLsb']
  by_cases h : i < 5
  · simp [h]
  · simp [h, show i - 5 < 3 by omega, show 5 + (i - 5) = i by omega]

/-- At the reference values IE reads as it is stored (R37). -/
theorem ieRead_reference {s : State} (h : s.params = Params.reference) : s.ieRead = s.ie := by
  have e : ∀ k : BitVec 3, (⟨Config.ieUnusedStored, 0⟩ : UnusedBits).read k = k := by decide
  rw [State.ieRead, h]
  exact (congrArg (· ++ s.ie.extractLsb' 0 5) (e _)).trans (extractLsb'_append_self s.ie)

/-- At the reference values a write of IE stores all its bits (R37). -/
theorem ieWritten_reference {s : State} (v : Byte) (h : s.params = Params.reference) : s.ieWritten v = v := by
  have e : ∀ k w : BitVec 3, (⟨Config.ieUnusedStored, 0⟩ : UnusedBits).write k w = w := by decide
  rw [State.ieWritten, h]
  exact (congrArg (· ++ v.extractLsb' 0 5) (e _ _)).trans (extractLsb'_append_self v)

/-- At the reference values bits 7 to 5 of IF read as 1 (R36). -/
theorem ifRead_reference {s : State} (h : s.params = Params.reference) : s.ifRead = 0b111#3 ++ s.iflag := by
  have e : ∀ k : BitVec 3, (⟨0, Config.ifUnusedRead⟩ : UnusedBits).read k = 0b111#3 := by decide
  rw [State.ifRead, h]
  exact congrArg (· ++ s.iflag) (e _)

/-- At the reference values a write of IF leaves what bits 7 to 5 store (R36). -/
theorem ifUpperWritten_reference {s : State} (v : Byte) (h : s.params = Params.reference) :
    s.ifUpperWritten v = s.ifUpper := by
  have e : ∀ k w : BitVec 3, (⟨0, Config.ifUnusedRead⟩ : UnusedBits).write k w = k := by decide
  rw [State.ifUpperWritten, h]
  exact e _ _

/-- What `MemRead` gives, place by place, and everything it can change: Platform's history (R52). -/
theorem memRead_spec (s : State) (addr : Word) :
    (s.place addr = .ieReg ∧ memRead s addr = (s.ieRead, s)) ∨
    (s.place addr = .ifReg ∧ memRead s addr = (s.ifRead, s)) ∨
    (s.place addr = .platform ∧
      memRead s addr = (Config.busRead s.plat.history addr, { s with plat := s.plat.note (.read addr) })) ∨
    (s.place addr = .plain ∧ memRead s addr = (s.mem.read addr, s)) := by
  unfold memRead
  cases s.place addr <;> simp

/-- What `MemWrite` changes, place by place (R53). -/
theorem memWrite_spec (s : State) (addr : Word) (v : Byte) :
    (s.place addr = .ieReg ∧ memWrite s addr v = { s with ie := s.ieWritten v }) ∨
    (s.place addr = .ifReg ∧
      memWrite s addr v = { s with iflag := v.extractLsb' 0 5, ifUpper := s.ifUpperWritten v }) ∨
    (s.place addr = .platform ∧ memWrite s addr v = { s with plat := s.plat.note (.write addr v) }) ∨
    (s.place addr = .plain ∧ memWrite s addr v = { s with mem := s.mem.write addr v }) := by
  unfold memWrite
  cases s.place addr <;> simp

/-- A read that Platform does not answer changes nothing. -/
theorem memRead_of_not_platform {s : State} {addr : Word} (h : s.place addr ≠ .platform) : (memRead s addr).2 = s := by
  rcases memRead_spec s addr with ⟨_, e⟩ | ⟨_, e⟩ | ⟨hp, _⟩ | ⟨_, e⟩
  · rw [e]
  · rw [e]
  · exact absurd hp h
  · rw [e]

/-- Where Platform does not answer, `MemRead` gives the byte the address holds. -/
theorem memRead_of_byteAt {s : State} {addr : Word} {v : Byte} (h : s.byteAt addr = some v) : memRead s addr = (v, s) := by
  rcases memRead_spec s addr with ⟨hp, e⟩ | ⟨hp, e⟩ | ⟨hp, e⟩ | ⟨hp, e⟩ <;> simp_all [State.byteAt]

@[simp] theorem memRead_owned (s : State) (addr : Word) : (memRead s addr).2.plat.owned = s.plat.owned := by
  unfold memRead
  cases s.place addr <;> rfl

@[simp] theorem memRead_joypadWake (s : State) (addr : Word) :
    (memRead s addr).2.plat.joypadWake = s.plat.joypadWake := by
  unfold memRead
  cases s.place addr <;> rfl

@[simp] theorem memRead_inbox (s : State) (addr : Word) : (memRead s addr).2.plat.inbox = s.plat.inbox := by
  unfold memRead
  cases s.place addr <;> rfl

@[simp] theorem memWrite_owned (s : State) (addr : Word) (v : Byte) :
    (memWrite s addr v).plat.owned = s.plat.owned := by
  unfold memWrite
  cases s.place addr <;> rfl

@[simp] theorem memWrite_joypadWake (s : State) (addr : Word) (v : Byte) :
    (memWrite s addr v).plat.joypadWake = s.plat.joypadWake := by
  unfold memWrite
  cases s.place addr <;> rfl

@[simp] theorem memWrite_inbox (s : State) (addr : Word) (v : Byte) :
    (memWrite s addr v).plat.inbox = s.plat.inbox := by
  unfold memWrite
  cases s.place addr <;> rfl

@[simp] theorem memRead_place (s : State) (addr other : Word) : (memRead s addr).2.place other = s.place other :=
  place_congr (memRead_params s addr) (memRead_owned s addr) other

@[simp] theorem memWrite_place (s : State) (addr : Word) (v : Byte) (other : Word) :
    (memWrite s addr v).place other = s.place other :=
  place_congr (memWrite_params s addr v) (memWrite_owned s addr v) other

/-- The byte an address holds depends on IE, IF, memory, the parameters and Platform's map alone. -/
theorem byteAt_congr {s t : State} (hie : t.ie = s.ie) (hif : t.iflag = s.iflag) (hup : t.ifUpper = s.ifUpper)
    (hm : t.mem = s.mem) (hp : t.params = s.params) (ho : t.plat.owned = s.plat.owned) (addr : Word) :
    t.byteAt addr = s.byteAt addr := by
  simp only [State.byteAt, State.ieRead, State.ifRead, place_congr hp ho, hie, hif, hup, hm, hp]

/-- A read changes no byte. -/
@[simp] theorem memRead_byteAt (s : State) (addr other : Word) : (memRead s addr).2.byteAt other = s.byteAt other :=
  byteAt_congr (s := s) (t := (memRead s addr).2) rfl rfl rfl rfl rfl (memRead_owned s addr) other

/-- Each interrupt register has one address. -/
theorem eq_of_place_ieReg {s : State} {addr : Word} (h : s.place addr = .ieReg) : addr = s.params.ieAddr := by
  unfold State.place at h
  split at h
  · assumption
  · split at h
    · cases h
    · split at h <;> cases h

theorem eq_of_place_ifReg {s : State} {addr : Word} (h : s.place addr = .ifReg) : addr = s.params.ifAddr := by
  unfold State.place at h
  split at h
  · cases h
  · split at h
    · assumption
    · split at h <;> cases h

/-- Neither interrupt register lies in plain memory. -/
theorem ne_of_place_plain {s : State} {addr : Word} (h : s.place addr = .plain) :
    addr ≠ s.params.ieAddr ∧ addr ≠ s.params.ifAddr := by
  unfold State.place at h
  split at h
  · cases h
  · split at h
    · cases h
    · exact ⟨‹_›, ‹_›⟩

/-- A write changes no byte but the one at its address. -/
theorem memWrite_byteAt_other (s : State) {addr other : Word} (v : Byte) (h : other ≠ addr) :
    (memWrite s addr v).byteAt other = s.byteAt other := by
  have hp := memWrite_place s addr v other
  rcases memWrite_spec s addr v with ⟨ha, e⟩ | ⟨ha, e⟩ | ⟨ha, e⟩ | ⟨ha, e⟩
  · have hne : s.place other ≠ .ieReg := fun ho => h ((eq_of_place_ieReg ho).trans (eq_of_place_ieReg ha).symm)
    unfold State.byteAt
    rw [hp, e]
    cases hq : s.place other <;> simp_all [State.ifRead]
  · have hne : s.place other ≠ .ifReg := fun ho => h ((eq_of_place_ifReg ho).trans (eq_of_place_ifReg ha).symm)
    unfold State.byteAt
    rw [hp, e]
    cases hq : s.place other <;> simp_all [State.ieRead]
  · unfold State.byteAt
    rw [hp, e]
    cases s.place other <;> rfl
  · unfold State.byteAt
    rw [hp, e]
    cases s.place other <;> simp [State.ieRead, State.ifRead, read_write_other _ _ h]

/-- R58, R53: after a write to plain memory its address holds the value written. -/
theorem memWrite_byteAt_same {s : State} {addr : Word} (v : Byte) (h : s.place addr = .plain) :
    (memWrite s addr v).byteAt addr = some v := by
  unfold State.byteAt
  rw [memWrite_place, h]
  simp [memWrite, h]

/-- Memory is in order: canonical, with neither interrupt register's address listed. -/
theorem memOk_iff (s : State) :
    s.memOk = true ↔
      s.mem.wf = true ∧ s.mem.find s.params.ieAddr.toNat = none ∧ s.mem.find s.params.ifAddr.toNat = none := by
  simp [State.memOk, Bool.and_eq_true, and_assoc]

/-- Whether memory is in order depends on memory and the parameters alone. -/
theorem memOk_congr {s t : State} (hm : t.mem = s.mem) (hp : t.params = s.params) : t.memOk = s.memOk := by
  simp only [State.memOk, hm, hp]

/-- A write keeps the canonical form of memory. -/
theorem memWrite_wf {s : State} (addr : Word) (v : Byte) (h : s.mem.wf = true) : (memWrite s addr v).mem.wf = true := by
  rcases memWrite_spec s addr v with ⟨_, e⟩ | ⟨_, e⟩ | ⟨_, e⟩ | ⟨_, e⟩ <;> rw [e]
  · exact h
  · exact h
  · exact h
  · exact wf_write addr v h

/-- A write keeps memory in order. -/
theorem memWrite_memOk {s : State} (addr : Word) (v : Byte) (h : s.memOk = true) : (memWrite s addr v).memOk = true := by
  rcases memWrite_spec s addr v with ⟨_, e⟩ | ⟨_, e⟩ | ⟨_, e⟩ | ⟨hp, e⟩ <;> rw [e]
  · exact h
  · exact h
  · exact h
  · obtain ⟨hw, hie, hif⟩ := (memOk_iff s).mp h
    obtain ⟨n1, n2⟩ := ne_of_place_plain hp
    exact (memOk_iff _).mpr ⟨wf_write addr v hw, (find_write_other _ v n1.symm).trans hie,
      (find_write_other _ v n2.symm).trans hif⟩

theorem memWrite16_memOk {s : State} (addr v : Word) (h : s.memOk = true) : (memWrite16 s addr v).memOk = true :=
  memWrite_memOk _ _ (memWrite_memOk _ _ h)

/-! ## The stack -/

@[simp] theorem push16_owned (s : State) (v : Word) : (push16 s v).plat.owned = s.plat.owned := by
  simp only [push16, memWrite_owned]

/-- A push keeps memory in order. -/
theorem push16_memOk {s : State} (v : Word) (h : s.memOk = true) : (push16 s v).memOk = true :=
  memWrite_memOk _ _ (memWrite_memOk _ _ h)

/-- A push changes no byte outside the two addresses below SP (R60). -/
theorem push16_byteAt_other (s : State) (v : Word) {addr : Word} (h1 : addr ≠ s.sp - 1) (h2 : addr ≠ s.sp - 2) :
    (push16 s v).byteAt addr = s.byteAt addr :=
  (memWrite_byteAt_other _ _ h2).trans (memWrite_byteAt_other s (hiByte v) h1)

@[simp] theorem pop16_owned (s : State) : (pop16 s).2.plat.owned = s.plat.owned := by
  simp only [pop16, memRead_owned]

/-- A pop changes SP and, where Platform answers, its history; no byte (R61). -/
@[simp] theorem pop16_byteAt (s : State) (addr : Word) : (pop16 s).2.byteAt addr = s.byteAt addr :=
  byteAt_congr (pop16_ie s) (pop16_iflag s) (pop16_ifUpper s) (pop16_mem s) (pop16_params s) (pop16_owned s) addr

/-! ## Operands -/

/-- Reading an `r8` operand changes at most Platform's history. -/
theorem readR8_snd (s : State) (o : R8) : (readR8 s o).2 = { s with plat := (readR8 s o).2.plat } := by
  cases o <;> rfl

@[simp] theorem readR8_owned (s : State) (o : R8) : (readR8 s o).2.plat.owned = s.plat.owned := by
  cases o <;> simp [readR8]

@[simp] theorem readR8_byteAt (s : State) (o : R8) (addr : Word) : (readR8 s o).2.byteAt addr = s.byteAt addr := by
  cases o <;> simp [readR8]

/-- Writing an `r8` operand keeps memory in order. -/
theorem writeR8_memOk {s : State} (o : R8) (v : Byte) (h : s.memOk = true) : (writeR8 s o v).memOk = true := by
  cases o <;> first | exact h | exact memWrite_memOk _ _ h

/-- Writing a register operand changes no byte of memory; writing `[hl]` changes the byte at HL alone. -/
theorem writeR8_byteAt {s : State} (o : R8) (v : Byte) {addr : Word} (h : o ≠ .hlInd ∨ addr ≠ s.hl) :
    (writeR8 s o v).byteAt addr = s.byteAt addr := by
  cases o <;> try rfl
  exact memWrite_byteAt_other s v (h.resolve_left (by simp))

/-- A read, a change and the write back: the operand's value goes through `change` (R62, R200). -/
theorem modifyR8_eq (s : State) (o : R8) (change : Byte → Byte × Flags) :
    modifyR8 s o change =
      { writeR8 (readR8 s o).2 o (change (readR8 s o).1).1 with f := (change (readR8 s o).1).2 } := rfl

/-! ## F as a byte -/

/-- Taking F apart from its own byte gives F back (R26, R181, R182). -/
@[simp] theorem ofByte_toByte (f : Flags) : Flags.ofByte f.toByte = f := by
  obtain ⟨z, n, h, c⟩ := f
  cases z <;> cases n <;> cases h <;> cases c <;> decide

@[simp] theorem hiByte_word (hi lo : Byte) : hiByte (word hi lo) = hi := by
  simp only [hiByte, word]
  exact BitVec.extractLsb'_append_eq_left

@[simp] theorem loByte_word (hi lo : Byte) : loByte (word hi lo) = lo := by
  simp only [loByte, word]
  exact BitVec.extractLsb'_append_eq_right

@[simp] theorem word_hiByte_loByte (v : Word) : word (hiByte v) (loByte v) = v := by
  refine BitVec.eq_of_getLsbD_eq fun i hi => ?_
  simp only [word, hiByte, loByte, BitVec.getLsbD_append, BitVec.getLsbD_extractLsb']
  by_cases h : i < 8
  · simp [h]
  · simp [h, show i - 8 < 8 by omega, show 8 + (i - 8) = i by omega]

/-! ## Interrupts -/

/-- What a dispatch can do (R232): refuse the overlap, or enter the handler of the least pending interrupt. -/
theorem dispatchInterrupt_spec (s : State) :
    ((s.sp - 1 = s.params.ieAddr ∨ s.sp - 1 = s.params.ifAddr ∨ s.sp - 2 = s.params.ieAddr ∨ s.sp - 2 = s.params.ifAddr) ∧
      dispatchInterrupt s = .refused .dispatchPushHitsInterruptRegister) ∨
    ((s.sp - 1 ≠ s.params.ieAddr ∧ s.sp - 1 ≠ s.params.ifAddr ∧ s.sp - 2 ≠ s.params.ieAddr ∧ s.sp - 2 ≠ s.params.ifAddr) ∧
      dispatchInterrupt s = .next
        { push16 { s with
            ime := false, eiPending := false, iflag := clearRequest s.iflag (leastSetBit s.pending) } s.pc with
          pc := vector (leastSetBit s.pending) }) := by
  unfold dispatchInterrupt State.isInterruptRegister
  split
  · rename_i h
    simp only [Bool.or_eq_true, decide_eq_true_eq] at h
    exact .inl ⟨by tauto, rfl⟩
  · rename_i h
    simp only [Bool.or_eq_true, decide_eq_true_eq, not_or] at h
    exact .inr ⟨⟨h.1.1, h.1.2, h.2.1, h.2.2⟩, rfl⟩

/-- What the EI delay can do (R224). -/
theorem enableAfter_spec (before : Bool) (s : State) :
    (before = true ∧ s.eiPending = true ∧ enableAfter before s = { s with ime := true, eiPending := false }) ∨
    ((before = false ∨ s.eiPending = false) ∧ enableAfter before s = s) := by
  unfold enableAfter
  cases before <;> cases s.eiPending <;> simp

@[simp] theorem enableAfter_false (s : State) : enableAfter false s = s := rfl

@[simp] theorem enableAfter_params (before : Bool) (s : State) : (enableAfter before s).params = s.params := by
  rcases enableAfter_spec before s with ⟨_, _, e⟩ | ⟨_, e⟩ <;> rw [e]

/-! ## Fetching and stepping -/

/-- What one `Fetch8` does (R82). -/
theorem fetch8_spec (s : State) :
    (s.haltBug = true ∧ fetch8 s = ((memRead s s.pc).1, { (memRead s s.pc).2 with haltBug := false })) ∨
    (s.haltBug = false ∧ fetch8 s = ((memRead s s.pc).1, { (memRead s s.pc).2 with pc := s.pc + 1 })) := by
  unfold fetch8
  split
  · rename_i h
    exact .inl ⟨h, rfl⟩
  · rename_i h
    exact .inr ⟨by simpa using h, rfl⟩

/-- Everything a `Fetch8` can change: PC, `halt_bug`, Platform's history. -/
theorem fetch8_snd (s : State) : ∃ p q, (fetch8 s).2 = { s with pc := p, haltBug := false, plat := q } := by
  rcases fetch8_spec s with ⟨h, e⟩ | ⟨h, e⟩ <;> rw [e]
  · exact ⟨_, _, rfl⟩
  · refine ⟨s.pc + 1, (memRead s s.pc).2.plat, ?_⟩
    rw [← h]
    rfl

/-- Everything a fetch can change: PC, `halt_bug`, Platform's history. -/
theorem fetchInstr_snd (s : State) :
    ∃ p q, (fetchInstr s).2 = { s with pc := p, haltBug := false, plat := q } := by
  obtain ⟨p, q, e⟩ := fetch8_snd s
  obtain ⟨p', q', e'⟩ := fetch8_snd (fetch8 s).2
  obtain ⟨p'', q'', e''⟩ := fetch8_snd (fetch8 (fetch8 s).2).2
  unfold fetchInstr
  dsimp only
  split
  · exact ⟨p, q, e⟩
  · exact ⟨p', q', by rw [e', e]⟩
  · exact ⟨p'', q'', by rw [e'', e', e]⟩

@[simp] theorem fetchInstr_params (s : State) : (fetchInstr s).2.params = s.params := by
  obtain ⟨p, q, e⟩ := fetchInstr_snd s
  rw [e]

/-- One whole instruction, when it answers a next state (R81). -/
theorem executeOne_next {s t : State} (h : executeOne s = .next t) :
    ∃ u, exec (fetchInstr s).1 (fetchInstr s).2 = .next u ∧ t = enableAfter s.eiPending u := by
  unfold executeOne at h
  revert h
  cases he : exec (fetchInstr s).1 (fetchInstr s).2 with
  | next u => intro h; exact ⟨u, rfl, by simpa [he] using h.symm⟩
  | fault r => exact nomatch r
  | refused r => simp

/-- Everything the core's part of a step can do, when it answers a next state (R222): nothing, a wake from Stopped, a
dispatch, or one instruction. -/
theorem cpuStep_next {s t : State} (h : cpuStep s = .next t) :
    (s.mode = .locked ∧ t = s) ∨
    (s.mode = .stopped ∧ s.stopWakes = false ∧ t = s) ∨
    (s.mode = .stopped ∧ s.stopWakes = true ∧ t = { s with mode := .running }) ∨
    (s.mode = .halted ∧ s.hasPending = false ∧ t = s) ∨
    ((s.mode = .running ∨ s.mode = .halted ∧ s.hasPending = true) ∧ s.ime = true ∧ s.hasPending = true ∧
      dispatchInterrupt { s with mode := .running } = .next t) ∨
    ((s.mode = .running ∨ s.mode = .halted ∧ s.hasPending = true) ∧ (s.ime = false ∨ s.hasPending = false) ∧
      executeOne { s with mode := .running } = .next t) := by
  have doe : ∀ u : State, dispatchOrExecute u = .next t →
      (u.ime = true ∧ u.hasPending = true ∧ dispatchInterrupt u = .next t) ∨
      ((u.ime = false ∨ u.hasPending = false) ∧ executeOne u = .next t) := by
    intro u hu
    unfold dispatchOrExecute at hu
    split at hu
    · rename_i hc
      simp only [Bool.and_eq_true] at hc
      exact .inl ⟨hc.1, hc.2, hu⟩
    · rename_i hc
      refine .inr ⟨?_, hu⟩
      cases h1 : u.ime <;> simp_all
  unfold cpuStep at h
  split at h
  · rename_i hm
    cases h
    exact .inl ⟨hm, rfl⟩
  · rename_i hm
    split at h <;> cases h
    · rename_i hj
      exact .inr (.inr (.inl ⟨hm, hj, rfl⟩))
    · rename_i hj
      exact .inr (.inl ⟨hm, by simpa using hj, rfl⟩)
  · rename_i hm
    split at h
    · rename_i hp
      rcases doe _ h with ⟨hi, hq, hd⟩ | ⟨hi, hd⟩
      · exact .inr (.inr (.inr (.inr (.inl ⟨.inr ⟨hm, hp⟩, hi, hp, hd⟩))))
      · exact .inr (.inr (.inr (.inr (.inr ⟨.inr ⟨hm, hp⟩, hi, hd⟩))))
    · rename_i hp
      cases h
      exact .inr (.inr (.inr (.inl ⟨hm, by simpa using hp, rfl⟩)))
  · rename_i hm
    have hs : ({ s with mode := .running } : State) = s := by rw [← hm]
    rw [hs]
    rcases doe _ h with ⟨hi, hq, hd⟩ | ⟨hi, hd⟩
    · exact .inr (.inr (.inr (.inr (.inl ⟨.inl hm, hi, hq, hd⟩))))
    · exact .inr (.inr (.inr (.inr (.inr ⟨.inl hm, hi, hd⟩))))

/-- What Platform's action does (R9, R229): nothing more to do, or the next action of its list. -/
theorem platformAct_spec (s : State) :
    (s.plat.inbox = [] ∧ platformAct s = s) ∨
    ∃ act rest, s.plat.inbox = act :: rest ∧ platformAct s = { s with
      iflag := s.iflag ||| allowedRequests s.mode act.requests
      plat := { s.plat with
        inbox := rest, joypadWake := act.joypadWake, history := BusEvent.act act :: s.plat.history } } := by
  unfold platformAct
  split
  · exact .inl ⟨‹_›, rfl⟩
  · exact .inr ⟨_, _, ‹_›, rfl⟩

/-- Everything Platform's action can change (R9): IF, and Platform itself. -/
theorem platformAct_eq (s : State) :
    platformAct s = { s with iflag := (platformAct s).iflag, plat := (platformAct s).plat } := by
  rcases platformAct_spec s with ⟨_, e⟩ | ⟨_, _, _, e⟩ <;> rw [e]

@[simp] theorem platformAct_params (s : State) : (platformAct s).params = s.params := by rw [platformAct_eq]

@[simp] theorem platformAct_mode (s : State) : (platformAct s).mode = s.mode := by rw [platformAct_eq]

@[simp] theorem platformAct_mem (s : State) : (platformAct s).mem = s.mem := by rw [platformAct_eq]

@[simp] theorem platformAct_owned (s : State) : (platformAct s).plat.owned = s.plat.owned := by
  rcases platformAct_spec s with ⟨_, e⟩ | ⟨_, _, _, e⟩ <;> rw [e]

/-! ## `stop` -/

/-- What `stop` can do (R132): what the owner's account says of the situation, or, where it says nothing, the default. -/
theorem execStop_spec (pad : Byte) (s : State) :
    (∃ e, s.stopAccount pad = some e ∧ execStop pad s = .next (applyStop s e)) ∨
    (s.stopAccount pad = none ∧ pad ≠ 0x00 ∧ execStop pad s = .refused .stopSecondByteNotZero) ∨
    (s.stopAccount pad = none ∧ pad = 0x00 ∧ (s.hasPending = true ∨ s.plat.joypadWake = true) ∧
      execStop pad s = .refused .stopWakeConditionHolds) ∨
    (s.stopAccount pad = none ∧ pad = 0x00 ∧ s.hasPending = false ∧ s.plat.joypadWake = false ∧
      execStop pad s = .next { s with mode := .stopped }) := by
  unfold execStop
  split
  · exact .inl ⟨_, ‹_›, rfl⟩
  · split
    · exact .inr (.inl ⟨‹_›, ‹_›, rfl⟩)
    · rename_i ha hp
      obtain rfl : pad = 0x00 := Decidable.of_not_not hp
      by_cases hw : s.hasPending = true ∨ s.plat.joypadWake = true
      · exact .inr (.inr (.inl ⟨ha, rfl, hw, by simp [hw]⟩))
      · simp only [not_or, Bool.not_eq_true] at hw
        exact .inr (.inr (.inr ⟨ha, rfl, hw.1, hw.2, by simp [hw.1, hw.2]⟩))

/-- With no account of `stop` in the parameters every `stop` follows the default. -/
theorem stopAccount_of_nil {s : State} (h : s.params.stop.entry = []) (pad : Byte) : s.stopAccount pad = none := by
  simp [State.stopAccount, h]

/-- With no account of the wake in the parameters a stopped core wakes on JoypadWake (R238). -/
theorem stopWakes_of_nil {s : State} (h : s.params.stop.wake = []) : s.stopWakes = s.plat.joypadWake := by
  simp [State.stopWakes, h]

end Sys2Proof.Machine
end

