-- ==== Sys2Proof/Laws/PerInstr.lean ====
section
/-! SUPPORT. Statements made for every instruction, one lemma per constructor of Instr. -/
namespace Sys2Proof.Laws

/-- The encoding of an instruction is as long as R98 says by its first byte. -/
def EncodedLength.Statement (i : Instr) : Prop :=
  (encode i).length = opcodeLength ((encode i).headD 0)

theorem EncodedLength.nop : EncodedLength.Statement .nop := rfl

theorem EncodedLength.ldR16Imm16 : ∀ (r : R16) (imm : Word), EncodedLength.Statement (.ldR16Imm16 r imm) := by
  intro r imm
  cases r <;> rfl

theorem EncodedLength.ldR16MemA : ∀ (m : R16Mem), EncodedLength.Statement (.ldR16MemA m) := by
  intro m
  cases m <;> rfl

theorem EncodedLength.ldAR16Mem : ∀ (m : R16Mem), EncodedLength.Statement (.ldAR16Mem m) := by
  intro m
  cases m <;> rfl

theorem EncodedLength.ldImm16Sp : ∀ (addr : Word), EncodedLength.Statement (.ldImm16Sp addr) := by
  intro addr
  rfl

theorem EncodedLength.incR16 : ∀ (r : R16), EncodedLength.Statement (.incR16 r) := by
  intro r
  cases r <;> rfl

theorem EncodedLength.decR16 : ∀ (r : R16), EncodedLength.Statement (.decR16 r) := by
  intro r
  cases r <;> rfl

theorem EncodedLength.addHlR16 : ∀ (r : R16), EncodedLength.Statement (.addHlR16 r) := by
  intro r
  cases r <;> rfl

theorem EncodedLength.incR8 : ∀ (o : R8), EncodedLength.Statement (.incR8 o) := by
  intro o
  cases o <;> rfl

theorem EncodedLength.decR8 : ∀ (o : R8), EncodedLength.Statement (.decR8 o) := by
  intro o
  cases o <;> rfl

theorem EncodedLength.ldR8Imm8 : ∀ (o : R8) (imm : Byte), EncodedLength.Statement (.ldR8Imm8 o imm) := by
  intro o imm
  cases o <;> rfl

theorem EncodedLength.rlca : EncodedLength.Statement .rlca := rfl

theorem EncodedLength.rrca : EncodedLength.Statement .rrca := rfl

theorem EncodedLength.rla : EncodedLength.Statement .rla := rfl

theorem EncodedLength.rra : EncodedLength.Statement .rra := rfl

theorem EncodedLength.daa : EncodedLength.Statement .daa := rfl

theorem EncodedLength.cpl : EncodedLength.Statement .cpl := rfl

theorem EncodedLength.scf : EncodedLength.Statement .scf := rfl

theorem EncodedLength.ccf : EncodedLength.Statement .ccf := rfl

theorem EncodedLength.jrImm8 : ∀ (e : Byte), EncodedLength.Statement (.jrImm8 e) := by
  intro e
  rfl

theorem EncodedLength.jrCondImm8 : ∀ (cc : Cond) (e : Byte), EncodedLength.Statement (.jrCondImm8 cc e) := by
  intro cc e
  cases cc <;> rfl

theorem EncodedLength.stop : ∀ (pad : Byte), EncodedLength.Statement (.stop pad) := by
  intro pad
  rfl

theorem EncodedLength.halt : EncodedLength.Statement .halt := rfl

theorem EncodedLength.ldR8R8 : ∀ (dst src : R8), EncodedLength.Statement (.ldR8R8 dst src) := by
  intro dst src
  cases dst <;> cases src <;> rfl

theorem EncodedLength.addAR8 : ∀ (o : R8), EncodedLength.Statement (.addAR8 o) := by
  intro o
  cases o <;> rfl

theorem EncodedLength.adcAR8 : ∀ (o : R8), EncodedLength.Statement (.adcAR8 o) := by
  intro o
  cases o <;> rfl

theorem EncodedLength.subAR8 : ∀ (o : R8), EncodedLength.Statement (.subAR8 o) := by
  intro o
  cases o <;> rfl

theorem EncodedLength.sbcAR8 : ∀ (o : R8), EncodedLength.Statement (.sbcAR8 o) := by
  intro o
  cases o <;> rfl

theorem EncodedLength.andAR8 : ∀ (o : R8), EncodedLength.Statement (.andAR8 o) := by
  intro o
  cases o <;> rfl

theorem EncodedLength.xorAR8 : ∀ (o : R8), EncodedLength.Statement (.xorAR8 o) := by
  intro o
  cases o <;> rfl

theorem EncodedLength.orAR8 : ∀ (o : R8), EncodedLength.Statement (.orAR8 o) := by
  intro o
  cases o <;> rfl

theorem EncodedLength.cpAR8 : ∀ (o : R8), EncodedLength.Statement (.cpAR8 o) := by
  intro o
  cases o <;> rfl

theorem EncodedLength.addAImm8 : ∀ (imm : Byte), EncodedLength.Statement (.addAImm8 imm) := by
  intro imm
  rfl

theorem EncodedLength.adcAImm8 : ∀ (imm : Byte), EncodedLength.Statement (.adcAImm8 imm) := by
  intro imm
  rfl

theorem EncodedLength.subAImm8 : ∀ (imm : Byte), EncodedLength.Statement (.subAImm8 imm) := by
  intro imm
  rfl

theorem EncodedLength.sbcAImm8 : ∀ (imm : Byte), EncodedLength.Statement (.sbcAImm8 imm) := by
  intro imm
  rfl

theorem EncodedLength.andAImm8 : ∀ (imm : Byte), EncodedLength.Statement (.andAImm8 imm) := by
  intro imm
  rfl

theorem EncodedLength.xorAImm8 : ∀ (imm : Byte), EncodedLength.Statement (.xorAImm8 imm) := by
  intro imm
  rfl

theorem EncodedLength.orAImm8 : ∀ (imm : Byte), EncodedLength.Statement (.orAImm8 imm) := by
  intro imm
  rfl

theorem EncodedLength.cpAImm8 : ∀ (imm : Byte), EncodedLength.Statement (.cpAImm8 imm) := by
  intro imm
  rfl

theorem EncodedLength.retCond : ∀ (cc : Cond), EncodedLength.Statement (.retCond cc) := by
  intro cc
  cases cc <;> rfl

theorem EncodedLength.ret : EncodedLength.Statement .ret := rfl

theorem EncodedLength.reti : EncodedLength.Statement .reti := rfl

theorem EncodedLength.jpCondImm16 : ∀ (cc : Cond) (addr : Word), EncodedLength.Statement (.jpCondImm16 cc addr) := by
  intro cc addr
  cases cc <;> rfl

theorem EncodedLength.jpImm16 : ∀ (addr : Word), EncodedLength.Statement (.jpImm16 addr) := by
  intro addr
  rfl

theorem EncodedLength.jpHl : EncodedLength.Statement .jpHl := rfl

theorem EncodedLength.callCondImm16 : ∀ (cc : Cond) (addr : Word), EncodedLength.Statement (.callCondImm16 cc addr) := by
  intro cc addr
  cases cc <;> rfl

theorem EncodedLength.callImm16 : ∀ (addr : Word), EncodedLength.Statement (.callImm16 addr) := by
  intro addr
  rfl

theorem EncodedLength.rstTgt3 : ∀ (tgt : BitVec 3), EncodedLength.Statement (.rstTgt3 tgt) := by
  unfold EncodedLength.Statement
  decide

theorem EncodedLength.popR16Stk : ∀ (r : R16Stk), EncodedLength.Statement (.popR16Stk r) := by
  intro r
  cases r <;> rfl

theorem EncodedLength.pushR16Stk : ∀ (r : R16Stk), EncodedLength.Statement (.pushR16Stk r) := by
  intro r
  cases r <;> rfl

theorem EncodedLength.prefixCB : ∀ (op2 : Byte), EncodedLength.Statement (.prefixCB op2) := by
  intro op2
  rfl

theorem EncodedLength.ldhCA : EncodedLength.Statement .ldhCA := rfl

theorem EncodedLength.ldhImm8A : ∀ (off : Byte), EncodedLength.Statement (.ldhImm8A off) := by
  intro off
  rfl

theorem EncodedLength.ldImm16A : ∀ (addr : Word), EncodedLength.Statement (.ldImm16A addr) := by
  intro addr
  rfl

theorem EncodedLength.ldhAC : EncodedLength.Statement .ldhAC := rfl

theorem EncodedLength.ldhAImm8 : ∀ (off : Byte), EncodedLength.Statement (.ldhAImm8 off) := by
  intro off
  rfl

theorem EncodedLength.ldAImm16 : ∀ (addr : Word), EncodedLength.Statement (.ldAImm16 addr) := by
  intro addr
  rfl

theorem EncodedLength.addSpImm8 : ∀ (e : Byte), EncodedLength.Statement (.addSpImm8 e) := by
  intro e
  rfl

theorem EncodedLength.ldHlSpImm8 : ∀ (e : Byte), EncodedLength.Statement (.ldHlSpImm8 e) := by
  intro e
  rfl

theorem EncodedLength.ldSpHl : EncodedLength.Statement .ldSpHl := rfl

theorem EncodedLength.di : EncodedLength.Statement .di := rfl

theorem EncodedLength.ei : EncodedLength.Statement .ei := rfl

theorem EncodedLength.invalidD3 : EncodedLength.Statement .invalidD3 := rfl

theorem EncodedLength.invalidDB : EncodedLength.Statement .invalidDB := rfl

theorem EncodedLength.invalidDD : EncodedLength.Statement .invalidDD := rfl

theorem EncodedLength.invalidE3 : EncodedLength.Statement .invalidE3 := rfl

theorem EncodedLength.invalidE4 : EncodedLength.Statement .invalidE4 := rfl

theorem EncodedLength.invalidEB : EncodedLength.Statement .invalidEB := rfl

theorem EncodedLength.invalidEC : EncodedLength.Statement .invalidEC := rfl

theorem EncodedLength.invalidED : EncodedLength.Statement .invalidED := rfl

theorem EncodedLength.invalidF4 : EncodedLength.Statement .invalidF4 := rfl

theorem EncodedLength.invalidFC : EncodedLength.Statement .invalidFC := rfl

theorem EncodedLength.invalidFD : EncodedLength.Statement .invalidFD := rfl

theorem EncodedLength.rlcR8 : ∀ (o : R8), EncodedLength.Statement (.rlcR8 o) := by
  intro o
  cases o <;> rfl

theorem EncodedLength.rrcR8 : ∀ (o : R8), EncodedLength.Statement (.rrcR8 o) := by
  intro o
  cases o <;> rfl

theorem EncodedLength.rlR8 : ∀ (o : R8), EncodedLength.Statement (.rlR8 o) := by
  intro o
  cases o <;> rfl

theorem EncodedLength.rrR8 : ∀ (o : R8), EncodedLength.Statement (.rrR8 o) := by
  intro o
  cases o <;> rfl

theorem EncodedLength.slaR8 : ∀ (o : R8), EncodedLength.Statement (.slaR8 o) := by
  intro o
  cases o <;> rfl

theorem EncodedLength.sraR8 : ∀ (o : R8), EncodedLength.Statement (.sraR8 o) := by
  intro o
  cases o <;> rfl

theorem EncodedLength.swapR8 : ∀ (o : R8), EncodedLength.Statement (.swapR8 o) := by
  intro o
  cases o <;> rfl

theorem EncodedLength.srlR8 : ∀ (o : R8), EncodedLength.Statement (.srlR8 o) := by
  intro o
  cases o <;> rfl

theorem EncodedLength.bitB3R8 : ∀ (b : BitVec 3) (o : R8), EncodedLength.Statement (.bitB3R8 b o) := by
  intro b o
  cases o <;> (unfold EncodedLength.Statement; revert b; decide)

theorem EncodedLength.resB3R8 : ∀ (b : BitVec 3) (o : R8), EncodedLength.Statement (.resB3R8 b o) := by
  intro b o
  cases o <;> (unfold EncodedLength.Statement; revert b; decide)

theorem EncodedLength.setB3R8 : ∀ (b : BitVec 3) (o : R8), EncodedLength.Statement (.setB3R8 b o) := by
  intro b o
  cases o <;> (unfold EncodedLength.Statement; revert b; decide)

end Sys2Proof.Laws
end

