-- ==== Sys2Proof/Tests/Slice0.lean ====
section
/-! SUPPORT. Tests of the model: ill-formed terms, words written out from the encoding tables, steps whose results
spec/95_test_vectors.md gives (its vector's name stands at each; part 1 holds the sources' own examples), and for every
statement with hypotheses a state that meets them. -/
namespace Sys2Proof.Tests
open Sys2Proof.Machine

/-! ## Helpers -/

/-- The vectors' default start state (95_test_vectors.md 2.1), its memory empty. -/
def base : State := { State.reset with pc := 0x0100 }

/-- Bytes placed in plain memory from an address on. -/
def place (s : State) (addr : Nat) : List Byte → State
  | [] => s
  | v :: rest => place { s with mem := s.mem.insert addr v } (addr + 1) rest

/-- Bytes placed at PC. -/
def code (bs : List Byte) (s : State) : State := place s s.pc.toNat bs

/-- Whether a step answers a next state of which `p` holds. -/
def steps (s : State) (p : State → Bool) : Bool :=
  match step s with
  | .next t => p t
  | .fault _ => false
  | .refused _ => false

/-- Whether a step is refused, and for this reason. -/
def refuses (s : State) (r : Refusal) : Bool :=
  match step s with
  | .next _ => false
  | .fault _ => false
  | .refused q => q == r

/-- Whether a byte of plain memory holds a value. -/
def holds (s : State) (addr : Word) (v : Byte) : Bool := s.byteAt addr == some v

/-- Whether A, F and PC have these values. -/
def afPc (t : State) (a f : Byte) (pc : Word) : Bool := t.a == a && t.f.toByte == f && t.pc == pc

/-- Whether the decoder reads exactly this instruction from exactly these bytes. -/
def reads (bs : List Byte) (i : Instr) : Bool :=
  match decodeBytes bs with
  | .ok (j, []) => j == i
  | _ => false

/-! ## Ill-formed terms -/

theorem test_illformed_ld_hl_hl : (Instr.ldR8R8 .hlInd .hlInd).wellFormed = false := by decide
theorem test_illformed_prefix_row : (Instr.prefixCB 0x30).wellFormed = false := by decide
theorem test_wellformed_ld_hl_b : (Instr.ldR8R8 .hlInd .b).wellFormed = true := by decide

/-! ## Words written out bit by bit from R92 to R97 and the operand tables R84 to R91 -/

theorem test_decode_block0_loads :
    reads [0b00000000] .nop ∧
    reads [0b00010001, 0x34, 0x12] (.ldR16Imm16 .de 0x1234) ∧
    reads [0b00110010] (.ldR16MemA .hld) ∧
    reads [0b00101010] (.ldAR16Mem .hli) ∧
    reads [0b00001000, 0x00, 0xC1] (.ldImm16Sp 0xC100) ∧
    reads [0b00011110, 0x42] (.ldR8Imm8 .e 0x42) := by decide

theorem test_decode_block0_arithmetic :
    reads [0b00110011] (.incR16 .sp) ∧
    reads [0b00011011] (.decR16 .de) ∧
    reads [0b00101001] (.addHlR16 .hl) ∧
    reads [0b00110100] (.incR8 .hlInd) ∧
    reads [0b00101101] (.decR8 .l) ∧
    reads [0b00000111] .rlca ∧ reads [0b00001111] .rrca ∧ reads [0b00010111] .rla ∧ reads [0b00011111] .rra ∧
    reads [0b00100111] .daa ∧ reads [0b00101111] .cpl ∧ reads [0b00110111] .scf ∧ reads [0b00111111] .ccf := by decide

theorem test_decode_block0_control :
    reads [0b00011000, 0xFE] (.jrImm8 0xFE) ∧
    reads [0b00110000, 0xFD] (.jrCondImm8 .nc 0xFD) ∧
    reads [0b00010000, 0x00] (.stop 0x00) := by decide

theorem test_decode_block1 :
    reads [0b01110110] .halt ∧
    reads [0b01000001] (.ldR8R8 .b .c) ∧
    reads [0b01110100] (.ldR8R8 .hlInd .h) ∧
    reads [0b01111110] (.ldR8R8 .a .hlInd) := by decide

theorem test_decode_block2 :
    reads [0b10000001] (.addAR8 .c) ∧ reads [0b10001011] (.adcAR8 .e) ∧ reads [0b10010110] (.subAR8 .hlInd) ∧
    reads [0b10011100] (.sbcAR8 .h) ∧ reads [0b10100101] (.andAR8 .l) ∧ reads [0b10101111] (.xorAR8 .a) ∧
    reads [0b10110010] (.orAR8 .d) ∧ reads [0b10111000] (.cpAR8 .b) := by decide

theorem test_decode_block3_immediate :
    reads [0b11000110, 0xFF] (.addAImm8 0xFF) ∧ reads [0b11001110, 0x3B] (.adcAImm8 0x3B) ∧
    reads [0b11010110, 0x0F] (.subAImm8 0x0F) ∧ reads [0b11011110, 0x3A] (.sbcAImm8 0x3A) ∧
    reads [0b11100110, 0x38] (.andAImm8 0x38) ∧ reads [0b11101110, 0x0F] (.xorAImm8 0x0F) ∧
    reads [0b11110110, 0x03] (.orAImm8 0x03) ∧ reads [0b11111110, 0x3C] (.cpAImm8 0x3C) := by decide

theorem test_decode_block3_control :
    reads [0b11010000] (.retCond .nc) ∧ reads [0b11001001] .ret ∧ reads [0b11011001] .reti ∧
    reads [0b11001010, 0x34, 0x12] (.jpCondImm16 .z 0x1234) ∧ reads [0b11000011, 0x00, 0x80] (.jpImm16 0x8000) ∧
    reads [0b11101001] .jpHl ∧
    reads [0b11011100, 0x00, 0x02] (.callCondImm16 .c 0x0200) ∧ reads [0b11001101, 0x00, 0x02] (.callImm16 0x0200) ∧
    reads [0b11101111] (.rstTgt3 5) := by decide

theorem test_decode_block3_rest :
    reads [0b11110001] (.popR16Stk .af) ∧ reads [0b11100101] (.pushR16Stk .hl) ∧
    reads [0b11100010] .ldhCA ∧ reads [0b11100000, 0x80] (.ldhImm8A 0x80) ∧
    reads [0b11101010, 0x00, 0xC0] (.ldImm16A 0xC000) ∧
    reads [0b11110010] .ldhAC ∧ reads [0b11110000, 0x0F] (.ldhAImm8 0x0F) ∧
    reads [0b11111010, 0x00, 0xC0] (.ldAImm16 0xC000) ∧
    reads [0b11101000, 0xFF] (.addSpImm8 0xFF) ∧ reads [0b11111000, 0x02] (.ldHlSpImm8 0x02) ∧
    reads [0b11111001] .ldSpHl ∧ reads [0b11110011] .di ∧ reads [0b11111011] .ei := by decide

theorem test_decode_invalid :
    reads [0xD3] .invalidD3 ∧ reads [0xDB] .invalidDB ∧ reads [0xDD] .invalidDD ∧ reads [0xE3] .invalidE3 ∧
    reads [0xE4] .invalidE4 ∧ reads [0xEB] .invalidEB ∧ reads [0xEC] .invalidEC ∧ reads [0xED] .invalidED ∧
    reads [0xF4] .invalidF4 ∧ reads [0xFC] .invalidFC ∧ reads [0xFD] .invalidFD := by decide

theorem test_decode_cb_page :
    reads [0xCB, 0b00000000] (.rlcR8 .b) ∧ reads [0xCB, 0b00001001] (.rrcR8 .c) ∧
    reads [0xCB, 0b00010010] (.rlR8 .d) ∧ reads [0xCB, 0b00011011] (.rrR8 .e) ∧
    reads [0xCB, 0b00100100] (.slaR8 .h) ∧ reads [0xCB, 0b00101101] (.sraR8 .l) ∧
    reads [0xCB, 0b00110110] (.swapR8 .hlInd) ∧ reads [0xCB, 0b00111111] (.srlR8 .a) ∧
    reads [0xCB, 0b01011110] (.bitB3R8 3 .hlInd) ∧ reads [0xCB, 0b10101001] (.resB3R8 5 .c) ∧
    reads [0xCB, 0b11010011] (.setB3R8 2 .e) := by decide

/-- A list that ends inside an instruction is refused by name. -/
theorem test_decode_truncated :
    decodeBytes [] = .error .noOpcode ∧ decodeBytes [0xC3, 0x00] = .error .truncated ∧
    decodeBytes [0xCB] = .error .truncated := ⟨rfl, rfl, rfl⟩

/-- The host's numbering: bytes from bit 0 up, but a row of the $CB table has 0xCB in bits 15 to 8 (log entry 20). -/
theorem test_table_words :
    decodeTableWord 24 0x0200CD = some (.callImm16 0x0200) ∧ decodeTableWord 16 0xCB30 = some (.swapR8 .b) ∧
    decodeTableWord 8 0x80 = some (.addAR8 .b) := by decide

/-! ## One step: Block 0 -/

/-- B0.1. -/
theorem test_nop : steps (code [0x00] { base with f := .ofByte 0xF0 }) (afPc · 0x00 0xF0 0x0101) := by decide
/-- B0.2. -/
theorem test_ld_bc_imm : steps (code [0x01, 0x34, 0x12] base) (fun t => t.b == 0x12 && t.c == 0x34 && t.pc == 0x0103) := by
  decide
/-- B0.7. -/
theorem test_ld_hld_a : steps (code [0x32] { base with a := 0x5A, h := 0xC0 })
    (fun t => holds t 0xC000 0x5A && t.h == 0xBF && t.l == 0xFF) := by decide
/-- B0.8: the store goes to IE, and HL wraps. -/
theorem test_ld_hli_a_to_ie : steps (code [0x22] { base with a := 0x77, h := 0xFF, l := 0xFF })
    (fun t => t.ie == 0x77 && t.hl == 0x0000) := by decide
/-- B0.12. -/
theorem test_ld_a_hld : steps (place (code [0x3A] base) 0x0000 [0x96]) (fun t => t.a == 0x96 && t.hl == 0xFFFF) := by decide
/-- B0.14. -/
theorem test_ld_mem_sp : steps (code [0x08, 0xFF, 0xC0] { base with sp := 0x1234 })
    (fun t => holds t 0xC0FF 0x34 && holds t 0xC100 0x12) := by decide
/-- B0.15. -/
theorem test_inc_bc : steps (code [0x03] { base with c := 0xFF, f := .ofByte 0xF0 })
    (fun t => t.bc == 0x0100 && t.f.toByte == 0xF0) := by decide
/-- B0.17. -/
theorem test_dec_de : steps (code [0x1B] base) (fun t => t.de == 0xFFFF && t.f.toByte == 0x00) := by decide
/-- B0.21. -/
theorem test_add_hl_sp : steps (code [0x39] { base with l := 0x01, sp := 0xFFFF, f := .ofByte 0xC0 })
    (fun t => t.hl == 0x0000 && t.f.toByte == 0xB0) := by decide
/-- B0.26. -/
theorem test_inc_hl_ind : steps (place (code [0x34] { base with h := 0xC0 }) 0xC000 [0xFF])
    (fun t => holds t 0xC000 0x00 && t.f.toByte == 0xA0) := by decide
/-- B0.28. -/
theorem test_dec_l : steps (code [0x2D] { base with f := .ofByte 0x10 }) (fun t => t.l == 0xFF && t.f.toByte == 0x70) := by
  decide
/-- B0.31, the sources' test case 1. -/
theorem test_ld_b_imm : steps (code [0x06, 0x42] base) (fun t => t.b == 0x42 && t.pc == 0x0102) := by decide
/-- B0.34. -/
theorem test_rlca : steps (code [0x07] { base with a := 0x85 }) (afPc · 0x0B 0x10 0x0101) := by decide
/-- B0.36. -/
theorem test_rrca : steps (code [0x0F] { base with a := 0x3B }) (afPc · 0x9D 0x10 0x0101) := by decide
/-- B0.39. -/
theorem test_rla : steps (code [0x17] { base with a := 0x80 }) (afPc · 0x00 0x10 0x0101) := by decide
/-- B0.41. -/
theorem test_rra : steps (code [0x1F] { base with a := 0x01, f := .ofByte 0x10 }) (afPc · 0x80 0x10 0x0101) := by decide
/-- B0.44. -/
theorem test_daa_after_addition : steps (code [0x27] { base with a := 0x9A }) (afPc · 0x00 0x90 0x0101) := by decide
/-- B0.48. -/
theorem test_daa_after_subtraction : steps (code [0x27] { base with a := 0xFF, f := .ofByte 0x70 })
    (afPc · 0x99 0x50 0x0101) := by decide
/-- B0.51. -/
theorem test_cpl : steps (code [0x2F] { base with a := 0x35, f := .ofByte 0x90 }) (afPc · 0xCA 0xF0 0x0101) := by decide
/-- B0.52. -/
theorem test_scf : steps (code [0x37] { base with f := .ofByte 0xE0 }) (afPc · 0x00 0x90 0x0101) := by decide
/-- B0.53. -/
theorem test_ccf : steps (code [0x3F] { base with f := .ofByte 0xF0 }) (afPc · 0x00 0x80 0x0101) := by decide
/-- B0.57. -/
theorem test_jr_backwards : steps (code [0x18, 0x80] base) (fun t => t.pc == 0x0082) := by decide
/-- B0.60: PC wraps; the displacement, at `IE_ADDR`, is the register's 0x00 (R72). -/
theorem test_jr_wraps : steps (code [0x18] { base with pc := 0xFFFE }) (fun t => t.pc == 0x0000) := by decide
/-- B0.63, the sources' test case 4. -/
theorem test_jr_z_taken : steps (code [0x28, 0x05] { base with f := .ofByte 0x80 }) (fun t => t.pc == 0x0107) := by decide
/-- B0.64. -/
theorem test_jr_z_not_taken : steps (code [0x28, 0x05] { base with f := .ofByte 0x70 }) (fun t => t.pc == 0x0102) := by
  decide
/-- B0.69. -/
theorem test_stop : steps (code [0x10, 0x00] { base with pc := 0x0150 }) (fun t => t.mode == .stopped && t.pc == 0x0152) := by
  decide

/-! ## Block 1 -/

/-- B1.6. -/
theorem test_ld_hl_ind_h : steps (code [0x74] { base with h := 0xC0, l := 0x05 }) (fun t => holds t 0xC005 0xC0) := by decide
/-- B1.11: IF reads with bits 7 to 5 set. -/
theorem test_ld_a_hl_ind_if : steps (code [0x7E] { base with h := 0xFF, l := 0x0F, iflag := 0x05 })
    (fun t => t.a == 0xE5) := by decide
/-- B1.13. -/
theorem test_halt : steps (code [0x76] { base with ime := true, ie := 0x01 })
    (fun t => t.mode == .halted && t.pc == 0x0101) := by decide
/-- B1.14. -/
theorem test_halt_bug : steps (code [0x76] { base with ie := 0x01, iflag := 0x01 })
    (fun t => t.mode == .running && t.haltBug) := by decide

/-! ## Block 2 and the immediates of Block 3 -/

/-- B2.1, the sources' test case 2. -/
theorem test_add_b : steps (code [0x80] { base with a := 0x0F, b := 0x01 }) (afPc · 0x10 0x20 0x0101) := by decide
/-- B2.12. -/
theorem test_adc_h : steps (code [0x8C] { base with h := 0xFF, f := .ofByte 0x10 }) (afPc · 0x00 0xB0 0x0101) := by decide
/-- B2.15. -/
theorem test_sub_b : steps (code [0x90] { base with a := 0x3E, b := 0x40 }) (afPc · 0xFE 0x50 0x0101) := by decide
/-- B2.21. -/
theorem test_sbc_b : steps (code [0x98] { base with b := 0xFF, f := .ofByte 0x10 }) (afPc · 0x00 0xF0 0x0101) := by decide
/-- B2.24. -/
theorem test_and_l : steps (code [0xA5] { base with a := 0x5A, l := 0x3F, f := .ofByte 0x50 })
    (afPc · 0x1A 0x20 0x0101) := by decide
/-- B2.27. -/
theorem test_xor_a : steps (code [0xAF] { base with a := 0xFF, f := .ofByte 0xF0 }) (afPc · 0x00 0x80 0x0101) := by decide
/-- B2.31. -/
theorem test_or_c : steps (code [0xB1] { base with a := 0x5A, c := 0x0F, f := .ofByte 0xF0 })
    (afPc · 0x5F 0x00 0x0101) := by decide
/-- B2.36. -/
theorem test_cp_hl_ind : steps (place (code [0xBE] { base with h := 0xC0 }) 0xC000 [0x01]) (afPc · 0x00 0x70 0x0101) := by
  decide
/-- B3a.1. -/
theorem test_add_imm : steps (code [0xC6, 0xFF] { base with a := 0x01 }) (afPc · 0x00 0xB0 0x0102) := by decide
/-- B3a.2. -/
theorem test_adc_imm : steps (code [0xCE, 0x3B] { base with a := 0xE1, f := .ofByte 0x10 }) (afPc · 0x1D 0x10 0x0102) := by
  decide
/-- B3a.3. -/
theorem test_sub_imm : steps (code [0xD6, 0x0F] { base with a := 0x3E }) (afPc · 0x2F 0x60 0x0102) := by decide
/-- B3a.4. -/
theorem test_sbc_imm : steps (code [0xDE, 0x3A] { base with a := 0x3B, f := .ofByte 0x10 }) (afPc · 0x00 0xC0 0x0102) := by
  decide
/-- B3a.5. -/
theorem test_and_imm : steps (code [0xE6, 0x38] { base with a := 0x5A }) (afPc · 0x18 0x20 0x0102) := by decide
/-- B3a.6. -/
theorem test_xor_imm : steps (code [0xEE, 0x0F] { base with a := 0xFF }) (afPc · 0xF0 0x00 0x0102) := by decide
/-- B3a.7. -/
theorem test_or_imm : steps (code [0xF6, 0x03] { base with a := 0x5A }) (afPc · 0x5B 0x00 0x0102) := by decide
/-- B3a.9. -/
theorem test_cp_imm : steps (code [0xFE, 0x90] { base with a := 0x10 }) (afPc · 0x10 0x50 0x0102) := by decide

/-! ## Block 3: control transfers, stack, loads of A, SP, interrupts -/

/-- A state with the return address 0x0153 on the stack (the vectors B3a.10 to B3a.15). -/
def called : State := place { base with pc := 0x0200, sp := 0xFFFC } 0xFFFC [0x53, 0x01]

/-- B3a.10. -/
theorem test_ret : steps (code [0xC9] called) (fun t => t.pc == 0x0153 && t.sp == 0xFFFE) := by decide
/-- B3a.11. -/
theorem test_ret_nz_taken : steps (code [0xC0] called) (fun t => t.pc == 0x0153 && t.sp == 0xFFFE) := by decide
/-- B3a.14. -/
theorem test_ret_nc_not_taken : steps (code [0xD0] { called with f := .ofByte 0x10 })
    (fun t => t.pc == 0x0201 && t.sp == 0xFFFC) := by decide
/-- B3a.18. -/
theorem test_reti : steps (code [0xD9] { called with eiPending := true })
    (fun t => t.pc == 0x0153 && t.ime && !t.eiPending) := by decide
/-- B3a.19. -/
theorem test_jp : steps (code [0xC3, 0x00, 0x80] base) (fun t => t.pc == 0x8000) := by decide
/-- B3a.22. -/
theorem test_jp_z_taken : steps (code [0xCA, 0x34, 0x12] { base with f := .ofByte 0x80 }) (fun t => t.pc == 0x1234) := by
  decide
/-- B3a.24. -/
theorem test_jp_c_not_taken : steps (code [0xDA, 0x34, 0x12] { base with f := .ofByte 0xE0 }) (fun t => t.pc == 0x0103) := by
  decide
/-- B3a.25. -/
theorem test_jp_hl : steps (code [0xE9] { base with h := 0xC1, l := 0x23 }) (fun t => t.pc == 0xC123) := by decide
/-- B3a.26, the sources' test case 5. -/
theorem test_call : steps (code [0xCD, 0x00, 0x02] { base with pc := 0x0150 })
    (fun t => t.pc == 0x0200 && t.sp == 0xFFFC && holds t 0xFFFD 0x01 && holds t 0xFFFC 0x53) := by decide
/-- B3a.31: SP wraps and the low byte goes to IE. -/
theorem test_call_sp_wraps : steps (code [0xCD, 0x34, 0x12] { base with pc := 0x0150, sp := 0x0001 })
    (fun t => t.sp == 0xFFFF && t.ie == 0x53 && holds t 0x0000 0x01) := by decide
/-- B3a.28. -/
theorem test_call_z_not_taken : steps (code [0xCC, 0x00, 0x02] { base with pc := 0x0150 })
    (fun t => t.pc == 0x0153 && t.sp == 0xFFFE) := by decide
/-- B3a.30. -/
theorem test_call_c_taken : steps (code [0xDC, 0x00, 0x02] { base with pc := 0x0150, f := .ofByte 0x10 })
    (fun t => t.pc == 0x0200 && holds t 0xFFFC 0x53) := by decide
/-- B3a.34. -/
theorem test_rst_28 : steps (code [0xEF] { base with pc := 0x0150 })
    (fun t => t.pc == 0x0028 && holds t 0xFFFD 0x01 && holds t 0xFFFC 0x51) := by decide
/-- B3b.2. -/
theorem test_push_af : steps (code [0xF5] { base with a := 0x12, f := .ofByte 0xB0 })
    (fun t => t.sp == 0xFFFC && holds t 0xFFFC 0xB0 && holds t 0xFFFD 0x12) := by decide
/-- B3b.5. -/
theorem test_pop_af : steps (place (code [0xF1] { base with sp := 0xFFFC }) 0xFFFC [0xFF, 0x12])
    (fun t => afPc t 0x12 0xF0 0x0101 && t.sp == 0xFFFE) := by decide
/-- B3b.8. -/
theorem test_ldh_c_a : steps (code [0xE2] { base with a := 0x77, c := 0x80 }) (fun t => holds t 0xFF80 0x77) := by decide
/-- B3b.11. -/
theorem test_ldh_imm_a : steps (code [0xE0, 0x0F] { base with a := 0xFF }) (fun t => t.iflag == 0x1F) := by decide
/-- B3b.12. -/
theorem test_ld_mem_a : steps (code [0xEA, 0x00, 0xC0] { base with a := 0x99 }) (fun t => holds t 0xC000 0x99) := by decide
/-- B3b.13. -/
theorem test_ldh_a_c : steps (place (code [0xF2] { base with c := 0x81 }) 0xFF81 [0x66]) (fun t => t.a == 0x66) := by decide
/-- B3b.14. -/
theorem test_ldh_a_imm : steps (code [0xF0, 0x0F] { base with iflag := 0x01 }) (fun t => t.a == 0xE1) := by decide
/-- B3b.16. -/
theorem test_ld_a_mem : steps (place (code [0xFA, 0x00, 0xC0] base) 0xC000 [0x99]) (fun t => t.a == 0x99) := by decide
/-- B3b.19. -/
theorem test_add_sp_carries : steps (code [0xE8, 0xFF] { base with sp := 0x0001 })
    (fun t => t.sp == 0x0000 && t.f.toByte == 0x30) := by decide
/-- B3b.22. -/
theorem test_add_sp_negative : steps (code [0xE8, 0x80] { base with sp := 0x0080 })
    (fun t => t.sp == 0x0000 && t.f.toByte == 0x10) := by decide
/-- B3b.25. -/
theorem test_ld_hl_sp : steps (code [0xF8, 0x0F] { base with sp := 0x00F1 })
    (fun t => t.hl == 0x0100 && t.f.toByte == 0x30) := by decide
/-- B3b.26. -/
theorem test_ld_sp_hl : steps (code [0xF9] { base with h := 0xC1 }) (fun t => t.sp == 0xC100) := by decide
/-- B3b.28. -/
theorem test_di : steps (code [0xF3] { base with eiPending := true }) (fun t => !t.ime && !t.eiPending) := by decide
/-- B3b.29. -/
theorem test_ei : steps (code [0xFB] base) (fun t => !t.ime && t.eiPending) := by decide
/-- B3b.37. -/
theorem test_invalid_dd : steps (code [0xDD] { base with ime := true }) (fun t => t.mode == .locked && t.pc == 0x0101) := by
  decide

/-! ## The $CB page -/

/-- CB.1. -/
theorem test_rlc_b : steps (code [0xCB, 0x00] { base with b := 0x85 }) (fun t => t.b == 0x0B && t.f.toByte == 0x10) := by
  decide
/-- CB.4. -/
theorem test_rrc_c : steps (code [0xCB, 0x09] { base with c := 0x01 }) (fun t => t.c == 0x80 && t.f.toByte == 0x10) := by
  decide
/-- CB.8. -/
theorem test_rl_hl_ind : steps (place (code [0xCB, 0x16] { base with h := 0xC0, f := .ofByte 0x10 }) 0xC000 [0x11])
    (fun t => holds t 0xC000 0x23 && t.f.toByte == 0x00) := by decide
/-- CB.9. -/
theorem test_rr_e : steps (code [0xCB, 0x1B] { base with e := 0x01 }) (fun t => t.e == 0x00 && t.f.toByte == 0x90) := by
  decide
/-- CB.12. -/
theorem test_sla_a : steps (code [0xCB, 0x27] { base with a := 0xFF }) (afPc · 0xFE 0x10 0x0102) := by decide
/-- CB.13. -/
theorem test_sra_l : steps (code [0xCB, 0x2D] { base with l := 0x8A }) (fun t => t.l == 0xC5 && t.f.toByte == 0x00) := by
  decide
/-- CB.16, the sources' test case 3. -/
theorem test_swap_b : steps (code [0xCB, 0x30] { base with b := 0x12, f := .ofByte 0xF0 })
    (fun t => t.b == 0x21 && t.f.toByte == 0x00) := by decide
/-- CB.19. -/
theorem test_srl_a : steps (code [0xCB, 0x3F] { base with a := 0x01 }) (afPc · 0x00 0x90 0x0102) := by decide
/-- CB.24. -/
theorem test_bit_7_a : steps (code [0xCB, 0x7F] { base with a := 0x80, f := .ofByte 0xD0 }) (afPc · 0x80 0x30 0x0102) := by
  decide
/-- CB.29. -/
theorem test_res_3_hl_ind : steps (place (code [0xCB, 0x9E] { base with h := 0xC0 }) 0xC000 [0xFF])
    (fun t => holds t 0xC000 0xF7) := by decide
/-- CB.33. -/
theorem test_set_2_e : steps (code [0xCB, 0xD3] base) (fun t => t.e == 0x04) := by decide

/-! ## Interrupts and refusals -/

/-- INT.1, the sources' test case 6. -/
theorem test_dispatch_vblank : steps (code [0x00] { base with ime := true, ie := 0x01, iflag := 0x01 })
    (fun t => t.pc == 0x0040 && !t.ime && t.iflag == 0 && holds t 0xFFFD 0x01 && holds t 0xFFFC 0x00) := by decide
/-- INT.2: the lower bit wins. -/
theorem test_dispatch_timer_before_joypad : steps (code [0x00] { base with ime := true, ie := 0x1F, iflag := 0x14 })
    (fun t => t.pc == 0x0050 && t.iflag == 0x10) := by decide
/-- INT.7. -/
theorem test_ie_upper_bits_never_dispatch : steps (code [0x00] { base with ime := true, ie := 0xE0, iflag := 0x1F })
    (fun t => t.pc == 0x0101) := by decide
/-- REF.1. -/
theorem test_refuse_stop_padding : refuses (code [0x10, 0x01] base) .stopSecondByteNotZero := by decide
/-- REF.2. -/
theorem test_refuse_stop_pending : refuses (code [0x10, 0x00] { base with ie := 0x01, iflag := 0x01 })
    .stopWakeConditionHolds := by decide
/-- REF.4. -/
theorem test_refuse_halt_after_ei :
    refuses (code [0x76] { base with eiPending := true, ie := 0x01, iflag := 0x01 }) .haltAfterEiWithRequest := by decide
/-- REF.5. -/
theorem test_refuse_dispatch_ie : refuses (code [0x00] { base with ime := true, ie := 0x01, iflag := 0x01, sp := 0x0000 })
    .dispatchPushHitsInterruptRegister := by decide
/-- REF.8. -/
theorem test_refuse_dispatch_if : refuses (code [0x00] { base with ime := true, ie := 0x01, iflag := 0x01, sp := 0xFF11 })
    .dispatchPushHitsInterruptRegister := by decide
/-- Durations the sources state: `swap b` 8, `jr z` taken 12 (R277). -/
theorem test_durations : tStates ⟨true, false, false, false⟩ (.swapR8 .b) = some 8 ∧
    tStates ⟨true, false, false, false⟩ (.jrCondImm8 .z 0x05) = some 12 := by decide

/-! ## Witnesses: for each statement with hypotheses, a concrete state and operands that meet all of them together -/

theorem test_witness_DecodeEncodeRoundTrip :
    (Instr.ldR8R8 .hlInd .a).wellFormed = true ∧ encode (.ldR8R8 .hlInd .a) = [0x77] := by decide

theorem test_witness_InvalidOpcodesLock :
    (0xFD : Byte) ∈ invalidOpcodes ∧ isInvalid .invalidD3 = true ∧
    ({ base with mode := .locked } : State).mode = .locked := by decide

/-- `ld b, $42` at 0x0100. -/
def ldAtPc : State := code [0x06, 0x42] base

theorem test_witness_StepRunsDecodedInstr :
    platformAct ldAtPc = ldAtPc ∧ ldAtPc.mode = .running ∧ ldAtPc.ime = false ∧ ldAtPc.haltBug = false ∧
    decodeBytes [0x06, 0x42] = .ok (.ldR8Imm8 .b 0x42, []) ∧
    (∀ k (h : k < [(0x06 : Byte), 0x42].length),
      ldAtPc.byteAt (ldAtPc.pc + BitVec.ofNat 16 k) = some [(0x06 : Byte), 0x42][k]) ∧
    step ldAtPc = .next { ldAtPc with pc := 0x0102, b := 0x42 } := by
  refine ⟨rfl, rfl, rfl, rfl, rfl, by decide, rfl⟩

/-- `ld b, $42` at the top of the address space, its opcode in IE. -/
def ldAtTop : State := place { base with pc := 0xFFFF, ie := 0x06 } 0x0000 [0x42]

theorem test_witness_StepRunsDecodedInstr_wraps :
    ldAtTop.mode = .running ∧ ldAtTop.pending = 0 ∧ ldAtTop.haltBug = false ∧
    (∀ k (h : k < [(0x06 : Byte), 0x42].length),
      ldAtTop.byteAt (ldAtTop.pc + BitVec.ofNat 16 k) = some [(0x06 : Byte), 0x42][k]) ∧
    step ldAtTop = .next { ldAtTop with pc := 0x0001, b := 0x42 } := by
  refine ⟨rfl, rfl, rfl, by decide, rfl⟩

/-- The HALT bug armed before `ld a, $14` (the vector INT.13), which runs as `ld a, $3E`. -/
def bugged : State := code [0x3E, 0x14] { base with haltBug := true, ie := 0x01, iflag := 0x01 }

theorem test_witness_HaltBugFetch :
    (base.ime = false ∧ base.eiPending = false ∧ ({ base with ie := 0x01, iflag := 0x01 } : State).pending ≠ 0) ∧
    (bugged.mode = .running ∧ bugged.ime = false ∧ bugged.eiPending = false ∧ bugged.haltBug = true ∧
      decodeBytes [0x3E, 0x3E] = .ok (.ldR8Imm8 .a 0x3E, []) ∧ bugged.byteAt bugged.pc = some 0x3E ∧
      (∀ k (h : k < [(0x3E : Byte)].length),
        bugged.byteAt (bugged.pc + BitVec.ofNat 16 k) = some [(0x3E : Byte)][k])) ∧
    step bugged = .next { bugged with haltBug := false, pc := 0x0101, a := 0x3E } := by
  refine ⟨by decide, ⟨rfl, rfl, rfl, rfl, rfl, by decide, by decide⟩, rfl⟩

/-- The HALT bug armed before a `halt`. -/
def buggedHalt : State := code [0x76] { base with haltBug := true, ie := 0x01, iflag := 0x01 }

theorem test_witness_HaltBugFetch_for_ever :
    buggedHalt.plat.inbox = [] ∧ buggedHalt.mode = .running ∧ buggedHalt.ime = false ∧ buggedHalt.eiPending = false ∧
    buggedHalt.haltBug = true ∧ buggedHalt.pending ≠ 0 ∧ buggedHalt.byteAt buggedHalt.pc = some 0x76 := by decide

/-- A state that dispatches, with a given SP. -/
def requested (sp : Word) : State := { base with ime := true, ie := 0xFF, iflag := 0x18, sp := sp }

theorem test_witness_DispatchEffect :
    ((requested 0xD000).mode = .running ∧ (requested 0xD000).ime = true ∧ (requested 0xD000).pending ≠ 0) ∧
    ({ requested 0xD000 with mode := .halted } : State).mode = .halted ∧
    steps (requested 0xD000) (fun t => t.pc == 0x0058 && t.iflag == 0x10) := by decide

/-- SP at the boundaries of the two clauses: 0x0002 and 0xFF12 push below a register's address, 0x0001 and 0xFF10 on it. -/
theorem test_witness_DispatchEffect_boundaries :
    steps (requested 0x0002) (fun t => t.sp == 0x0000) ∧ steps (requested 0xFF12) (fun t => t.sp == 0xFF10) ∧
    steps (requested 0xFFFF) (fun t => t.sp == 0xFFFD) ∧ steps (requested 0xFF0F) (fun t => t.sp == 0xFF0D) ∧
    refuses (requested 0x0001) .dispatchPushHitsInterruptRegister ∧
    refuses (requested 0xFF10) .dispatchPushHitsInterruptRegister := by decide

theorem test_witness_DispatchThenReti :
    (requested 0xD000).place 0xCFFF = .plain ∧ (requested 0xD000).place 0xCFFE = .plain ∧
    ∃ t, dispatchInterrupt (requested 0xD000) = .next t ∧ t.pc = 0x0058 := by
  refine ⟨by decide, by decide, _, rfl, rfl⟩

/-- A locked core while Platform raises three requests in two of its three actions. -/
def lockedCore : State :=
  { base with mode := .locked, iflag := 0b00001, plat := ⟨[], false, [⟨0b00110, true⟩, ⟨0b00000, false⟩, ⟨0b10000, true⟩], []⟩ }

theorem test_witness_LockedForever :
    isInvalid .invalidED = true ∧ lockedCore.mode = .locked ∧
    runSteps 2 lockedCore = .next { lockedCore with
      iflag := 0b00111, plat := ⟨[], false, [⟨0b10000, true⟩], [.act ⟨0b00000, false⟩, .act ⟨0b00110, true⟩]⟩ } := by
  refine ⟨rfl, rfl, rfl⟩

/-- A halted core, with IE, IF and IME as given. -/
def asleep (ie : Byte) (iflag : BitVec 5) (ime : Bool) : State :=
  code [0x04] { base with mode := .halted, ie := ie, iflag := iflag, ime := ime }

theorem test_witness_HaltedWakes :
    ((asleep 0x01 0x02 true).mode = .halted ∧ (asleep 0x01 0x02 true).pending = 0) ∧
    ((asleep 0x02 0x02 true).pending ≠ 0 ∧ (asleep 0x02 0x02 true).ime = true) ∧
    ((asleep 0x02 0x02 false).pending ≠ 0 ∧ (asleep 0x02 0x02 false).ime = false ∧
      steps (asleep 0x02 0x02 false) (fun t => t.b == 0x01 && t.iflag == 0x02)) := by decide

/-- A stopped core with Platform's next action: JoypadWake and every request. -/
def stoppedWaking : State := { base with mode := .stopped, plat := ⟨[], false, [⟨0b11111, true⟩], []⟩ }

theorem test_witness_StoppedWakes :
    (stoppedWaking.mode = .stopped ∧ (platformAct stoppedWaking).plat.joypadWake = true) ∧
    steps stoppedWaking (fun t => t.mode == .running && t.iflag == 0b10000) ∧
    (({ base with mode := .stopped } : State).plat.joypadWake = false ∧
      (platformAct { base with mode := .stopped }).plat.joypadWake = false) := by decide

theorem test_witness_StoppedWakes_for_ever :
    let s : State := { base with mode := .stopped, plat := ⟨[], false, [⟨0b00001, false⟩, ⟨0b10001, false⟩], []⟩ }
    s.mode = .stopped ∧ s.params.stop.wake = [] ∧ s.plat.joypadWake = false ∧ (∀ act ∈ s.plat.inbox, act.joypadWake = false) ∧
    ∃ t, runSteps 3 s = .next t ∧ t.mode = .stopped ∧ t.iflag = 0b10000 := by
  refine ⟨rfl, rfl, rfl, by decide, _, rfl, rfl, rfl⟩

/-- Parameters none of which is at its reference value: IE at 0x2000 with no storage in bits 7 to 5, which read as 010; IF at
0x2001 with bit 7 plain storage and bits 6 and 5 reading as 01; the high page at 0x2100; an account of `stop` in which a
second byte 0x01 halts, and is executed after it, while nothing is pending; and one in which a pending request wakes. -/
def otherParams : Params where
  ieAddr := 0x2000
  ifAddr := 0x2001
  highBase := 0x2100
  ieUnused := ⟨0b000, 0b010⟩
  ifUnused := ⟨0b100, 0b001⟩
  stop := ⟨[(⟨0x01, 0, false, false, false⟩, ⟨.halted, true⟩)], [(⟨false, 0x01, 0x01, false⟩, true)]⟩

/-- The default start state under these parameters. -/
def other : State := { base with params := otherParams }

/-- IE, IF and the high page where the parameters say, and what bits 7 to 5 of IE and IF read as after a write of 0xE0. -/
theorem test_params_registers :
    let s := memWrite (memWrite other 0x2000 0xE0) 0x2001 0xE0
    (memRead s 0x2000).1 = 0x40 ∧ (memRead s 0x2001).1 = 0xA0 ∧ s.mem = [] ∧ other.place 0xFFFF = .plain ∧
    steps (code [0xE0, 0x01] { other with a := 0x5A }) (fun t => holds t 0x2101 0x5A) := by decide

/-- After the boot ROM IF reads 0xE1 (R262), at the reference parameters and where bits 7 to 5 are storage (log entry 28). -/
theorem test_afterBootRom_if :
    let storing : Params := { Params.reference with ifUnused := ⟨0b111, 0b000⟩ }
    (memRead (State.afterBootRom false [] ⟨[], false, [], []⟩ Params.reference) 0xFF0F).1 = 0xE1 ∧
    (memRead (State.afterBootRom false [] ⟨[], false, [], []⟩ storing) 0xFF0F).1 = 0xE1 := by decide

/-- A listed situation follows its account; with the other second byte, or with a request pending, `stop` is as by default. -/
theorem test_params_stop :
    steps (code [0x10, 0x01] other) (fun t => t.mode == .halted && t.pc == 0x0101) ∧
    steps (code [0x10, 0x00] other) (fun t => t.mode == .stopped && t.pc == 0x0102) ∧
    refuses (code [0x10, 0x01] { other with ie := 0x01, iflag := 0x01 }) .stopSecondByteNotZero ∧
    steps { other with mode := .stopped, ie := 0x01, iflag := 0x01 } (fun t => t.mode == .running) ∧
    steps { other with mode := .stopped, ie := 0x02, iflag := 0x02 } (fun t => t.mode == .stopped) := by decide

theorem test_witness_StopRule :
    (base.stopAccount 0x00 = none ∧ base.stopAccount 0x01 = none ∧ other.stopAccount 0x00 = none ∧
      base.params.stop.entry = []) ∧
    otherParams.stop.entry.lookup
      ⟨0x01, other.pending, other.ime, other.eiPending, other.plat.joypadWake⟩ = some ⟨.halted, true⟩ ∧
    (base.pending = 0 ∧ base.plat.joypadWake = false) ∧ (0x01 : Byte) ≠ 0x00 ∧
    ({ base with ie := 0x10, iflag := 0x10 } : State).pending ≠ 0 ∧
    ({ base with plat := ⟨[], true, [], []⟩ } : State).plat.joypadWake = true ∧
    stoppedWaking.mode = .stopped := by decide

theorem test_witness_HaltRule :
    (({ base with eiPending := true, ie := 0x01, iflag := 0x01 } : State).eiPending = true ∧
      ({ base with eiPending := true, ie := 0x01, iflag := 0x01 } : State).pending ≠ 0) ∧
    (base.eiPending = false ∧ base.ime = false ∧ ({ base with ie := 0x01, iflag := 0x01 } : State).pending ≠ 0) ∧
    (({ base with ime := true } : State).eiPending = false ∧ ({ base with ime := true } : State).ime = true) ∧
    base.pending = 0 := by decide

/-- A state in which `ei` has just executed, with code at PC. -/
def enabling (bs : List Byte) : State := code bs { base with eiPending := true }

theorem test_witness_EiDelay :
    (base.eiPending = false ∧ steps (code [0xFB] base) (fun t => t.eiPending && !t.ime)) ∧
    ((enabling [0x00]).mode = .running ∧ (enabling [0x00]).ime = false ∧ (enabling [0x00]).eiPending = true ∧
      (fetchInstr (enabling [0x00])).1 = .nop ∧ steps (enabling [0x00]) (fun t => t.ime)) ∧
    ((fetchInstr (enabling [0xF3])).1 = .di ∧ steps (enabling [0xF3]) (fun t => !t.ime)) := by decide

theorem test_witness_ImeWriters :
    steps (requested 0xD000) (fun t => t.ime != (requested 0xD000).ime) ∧
    steps (code [0xF3] { base with ime := true }) (fun t => !t.ime) ∧
    steps (code [0xD9] called) (fun t => t.ime) ∧ called.ime = false ∧
    steps (enabling [0x00]) (fun t => t.ime) ∧ (enabling [0x00]).ime = false := by decide

theorem test_witness_ModeWriters :
    steps (asleep 0x02 0x02 false) (fun t => t.mode == .running) ∧
    steps stoppedWaking (fun t => t.mode == .running) ∧
    steps (code [0x76] base) (fun t => t.mode == .halted) ∧
    steps (code [0x10, 0x00] base) (fun t => t.mode == .stopped) ∧
    steps (code [0xE3] base) (fun t => t.mode == .locked) ∧
    steps (code [0x10, 0x01] other) (fun t => t.mode == .halted) ∧
    steps { other with mode := .stopped, ie := 0x01, iflag := 0x01 } (fun t => t.mode == .running) := by decide

/-- The four refusals (the vectors REF.1, REF.3, REF.4, REF.7). -/
theorem test_witness_StepRefusals :
    refuses (code [0x10, 0xFF] base) .stopSecondByteNotZero ∧
    refuses (code [0x10, 0x00] { base with plat := ⟨[], true, [], []⟩ }) .stopWakeConditionHolds ∧
    refuses (code [0x76] { base with eiPending := true, ie := 0x01, iflag := 0x01 }) .haltAfterEiWithRequest ∧
    refuses (requested 0xFF10) .dispatchPushHitsInterruptRegister := by decide

theorem test_witness_PlatformActs :
    base.plat.inbox = [] ∧ stoppedWaking.plat.inbox = ⟨0b11111, true⟩ :: [] ∧
    platformAct { stoppedWaking with mode := .running } =
      { base with iflag := 0b11111, plat := ⟨[], true, [], [.act ⟨0b11111, true⟩]⟩ } := by decide

/-- The invariant holds in a state whose step writes memory. -/
theorem test_witness_InvKeptByStep :
    (code [0xEA, 0x00, 0xC0] base).Inv ∧ ∃ t, step (code [0xEA, 0x00, 0xC0] base) = .next t ∧ t.mem ≠ [] := by
  refine ⟨⟨rfl, fun h => by cases h⟩, _, rfl, ?_⟩
  decide

theorem test_witness_InvAtLaunch :
    let m : Memory := [(0x0100, 0x00), (0xFFFE, 0x01)]
    m.wf = true ∧ m.find Params.reference.ieAddr.toNat = none ∧ m.find Params.reference.ifAddr.toNat = none ∧
    Memory.wf [(0x0100, 0x00), (0x0100, 0x01)] = false ∧
    ({ base with mem := [(0xFFFF, 0x01)] } : State).memOk = false := by decide

/-- Addresses beside the two registers' (LaunchValues, ByteAccess, PlainMemory). -/
theorem test_witness_addresses :
    (0xFFFE : Word) ≠ 0xFFFF ∧ (0xFFFE : Word) ≠ 0xFF0F ∧ (0xFF0E : Word) ≠ 0xFF0F ∧ (0xFF10 : Word) ≠ 0xFF0F ∧
    base.place 0xFFFE = .plain ∧ base.place 0xFF0E = .plain ∧ base.place 0xFF10 = .plain ∧ base.place 0x0000 = .plain ∧
    base.mem.find 0xC000 = none ∧ base.params = Params.reference ∧ base.params.ifAddr ≠ base.params.ieAddr ∧
    otherParams.ifAddr ≠ otherParams.ieAddr ∧ otherParams.ifUnused.stored.getLsbD 2 = true ∧
    base.params.ieUnused.stored.getLsbD 0 = true := by decide

/-- An address inside a region of Platform's, and the addresses on both sides of it. -/
theorem test_witness_ByteAccess_region :
    let s : State := { base with plat := ⟨[⟨0x8000, 0x9FFF⟩], false, [], []⟩ }
    s.place 0x8000 = .platform ∧ s.place 0x9FFF = .platform ∧ s.place 0x7FFF = .plain ∧ s.place 0xA000 = .plain := by decide

/-- SixteenBitStore and FetchSeesStore, at the top of plain memory. -/
theorem test_witness_SixteenBitStore :
    base.place 0xFFFD = .plain ∧ base.place (0xFFFD + 1) = .plain ∧ base.place 0xFF0D = .plain ∧
    base.place (0xFF0D + 1) = .plain := by decide

/-- PushThenPop and CallThenRet, on an ordinary stack and where SP wraps; addresses beside the two that a push writes. -/
theorem test_witness_stack_in_plain_memory :
    base.place (base.sp - 1) = .plain ∧ base.place (base.sp - 2) = .plain ∧
    ({ base with sp := 0x0002 } : State).place (0x0002 - 1) = .plain ∧
    ({ base with sp := 0x0002 } : State).place (0x0002 - 2) = .plain ∧
    base.sp ∉ pushAddrs base ∧ base.sp - 3 ∉ pushAddrs base := by decide

theorem test_witness_EightBitLoads : R8.b ≠ .hlInd ∧ ¬ (R8.hlInd = .hlInd ∧ R8.a = .hlInd) := by decide

theorem test_witness_DaaRule :
    base.f.n = false ∧ ({ base with f := .ofByte 0x40 } : State).f.n = true := by decide

/-- Both operands at the end of the packed-BCD range, 99. -/
theorem test_witness_DaaIsDecimal :
    let s : State := { base with a := 0x99, b := 0x99 }
    s.a.toNat % 16 ≤ 9 ∧ s.a.toNat / 16 ≤ 9 ∧ s.b.toNat % 16 ≤ 9 ∧ s.b.toNat / 16 ≤ 9 := by decide

/-- A condition that holds and one that does not, of each flag (RelativeJumps, AbsoluteJumps, CallsAndRst, Returns). -/
theorem test_witness_conditions :
    condHolds (.ofByte 0x80) .z = true ∧ condHolds (.ofByte 0x80) .nz = false ∧
    condHolds (.ofByte 0x10) .nc = false ∧ condHolds (.ofByte 0x10) .c = true ∧
    condHolds (.ofByte 0x00) .nz = true ∧ condHolds (.ofByte 0x00) .nc = true := by decide

theorem test_witness_DiAndEi :
    let s := code [0xF3] { base with ie := 0x01, iflag := 0x01, eiPending := true }
    s.mode = .running ∧ s.ime = false ∧ (fetchInstr s).1 = .di ∧ steps s (fun t => !t.ime && !t.eiPending) := by decide

/-- An instruction that writes registers, flags and memory (FrameRegistersAndFlags, FrameMemory, FrameControl,
BusAccesses): `inc [hl]`. -/
theorem test_witness_frames :
    let s := place { base with h := 0xC0 } 0xC000 [0xFF]
    (∃ t, exec (.incR8 .hlInd) s = .next t) ∧ Reg.a ∉ dests (.incR8 .hlInd) ∧ (0xC001 : Word) ∉ stores s (.incR8 .hlInd) ∧
    s.params.ieAddr ∉ stores s (.incR8 .hlInd) ∧ isControlTransfer (.incR8 .hlInd) = false ∧
    (∀ pad, Instr.incR8 .hlInd = .stop pad → ∀ e, s.stopAccount pad = some e → e.rereadsPad = false) ∧
    (∀ addr, addr ∈ loads s (.incR8 .hlInd) ∨ addr ∈ stores s (.incR8 .hlInd) → s.place addr ≠ .platform) := by
  refine ⟨⟨_, rfl⟩, by decide, by decide, by decide, rfl, (fun _ h => nomatch h), ?_⟩
  intro addr h
  have e : addr = 0xC000 := by
    rcases h with h | h <;> exact List.mem_singleton.mp h
  subst e
  decide

/-- BusAccesses, where Platform owns the address read and written: it sees the read and then the write. -/
theorem test_witness_BusAccesses :
    let s : State := { base with h := 0x80, plat := ⟨[⟨0x8000, 0x8000⟩], false, [], []⟩ }
    s.place 0x8000 = .platform ∧ loads s (.swapR8 .hlInd) = [0x8000] ∧ stores s (.swapR8 .hlInd) = [0x8000] ∧
    ∃ t v, exec (.swapR8 .hlInd) s = .next t ∧ t.plat.history = [.write 0x8000 v, .read 0x8000] := by
  refine ⟨by decide, rfl, rfl, _, _, rfl, rfl⟩

end Sys2Proof.Tests
end

section
/-! PROOFS of the statements about the encoding (30_encoding.md R80 to R98), with the facts about the decoder, the fetch and
the operand tables that they rest on. -/
namespace Sys2Proof.Encoding
open Sys2Proof.Machine

/-! ## How many bytes the decoder reads (R98) -/

/-- The length of R98 by its two tables. -/
theorem opcodeLength_spec (op : Byte) :
    (op ∈ threeByteOpcodes ∧ opcodeLength op = 3) ∨ (op ∈ twoByteOpcodes ∧ opcodeLength op = 2) ∨
    opcodeLength op = 1 := by
  unfold opcodeLength
  split
  · rename_i h3
    exact .inl ⟨List.contains_iff_mem.mp h3, rfl⟩
  · split
    · rename_i h2
      exact .inr (.inl ⟨List.contains_iff_mem.mp h2, rfl⟩)
    · exact .inr (.inr rfl)

/-- An opcode of no other block is one of Block 3. -/
theorem bits76_eq_three : ∀ op : Byte, (bits76 op).toNat ≠ 0 → (bits76 op).toNat ≠ 1 → (bits76 op).toNat ≠ 2 →
    bits76 op = 3 := by decide

/-- The one-byte opcodes of Block 0 fit no pattern of R92 that has an operand byte. -/
theorem block0_fields_of_length_one : ∀ op : Byte, bits76 op = 0 → opcodeLength op = 1 →
    (bits20 op).toNat ≠ 6 ∧ ((bits20 op).toNat = 0 → (bits53 op).toNat = 0) ∧
    ((bits20 op).toNat = 1 → op.getLsbD 3 = true) := by decide

/-- The one-byte opcodes of Block 3 fit no pattern of R95 that has an operand byte. -/
theorem block3_fields_of_length_one : ∀ op : Byte, bits76 op = 3 → opcodeLength op = 1 →
    (bits20 op).toNat ≠ 6 ∧ ((bits20 op).toNat = 0 → (bits53 op).toNat < 4) ∧
    ((bits20 op).toNat = 2 → (bits53 op).toNat = 4 ∨ (bits53 op).toNat = 6) ∧
    ((bits20 op).toNat = 3 → 2 ≤ (bits53 op).toNat) ∧
    ((bits20 op).toNat = 4 →
      (bits53 op).toNat = 4 ∨ (bits53 op).toNat = 5 ∨ (bits53 op).toNat = 6 ∨ (bits53 op).toNat = 7) ∧
    ((bits20 op).toNat = 5 → (bits53 op).toNat ≠ 1) := by decide

/-- Column by column (bits 2 to 0): the patterns with an operand byte are excluded by the length. -/
theorem decodeBlock0_of_length_one {op : Byte} (hb : bits76 op = 0) (hl : opcodeLength op = 1) (b1 b2 : Byte) :
    decodeBlock0 op b1 b2 = decodeBlock0 op 0 0 := by
  obtain ⟨hz6, hz0, hz1⟩ := block0_fields_of_length_one op hb hl
  unfold decodeBlock0
  split
  case h_1 hz => simp [hz0 hz]
  case h_2 hz => simp [hz1 hz]
  case h_7 hz => exact absurd hz hz6
  all_goals rfl

/-- As for Block 0, and within a column row by row (bits 5 to 3). -/
theorem decodeBlock3_of_length_one {op : Byte} (hb : bits76 op = 3) (hl : opcodeLength op = 1) (b1 b2 : Byte) :
    decodeBlock3 op b1 b2 = decodeBlock3 op 0 0 := by
  obtain ⟨hz6, hz0, hz2, hz3, hz4, hz5⟩ := block3_fields_of_length_one op hb hl
  unfold decodeBlock3
  split
  case h_1 hz =>
    specialize hz0 hz
    split
    case h_5 => rfl
    all_goals omega
  case h_2 hz => rfl
  case h_3 hz => rcases hz2 hz with hy | hy <;> simp [hy]
  case h_4 hz =>
    specialize hz3 hz
    split
    case h_1 | h_2 => omega
    all_goals rfl
  case h_5 hz => rcases hz4 hz with hy | hy | hy | hy <;> simp [hy]
  case h_6 hz =>
    specialize hz5 hz
    split
    case h_1 => omega
    all_goals rfl
  case h_7 hz => exact absurd hz hz6
  case h_8 => rfl

/-- An instruction of one byte is decoded from that byte alone (R81, R98). -/
theorem decode_of_length_one {op : Byte} (hl : opcodeLength op = 1) (b1 b2 : Byte) :
    decode op b1 b2 = decode op 0 0 := by
  unfold decode
  split
  case h_1 hx => exact decodeBlock0_of_length_one (BitVec.eq_of_toNat_eq hx) hl b1 b2
  case h_2 => rfl
  case h_3 => rfl
  case h_4 hx0 hx1 hx2 => exact decodeBlock3_of_length_one (bits76_eq_three op hx0 hx1 hx2) hl b1 b2

/-- An instruction of two bytes is decoded from these alone (R81, R98). -/
theorem decode_of_length_two {op : Byte} (hl : opcodeLength op = 2) (b1 b2 : Byte) :
    decode op b1 b2 = decode op b1 0 := by
  rcases opcodeLength_spec op with ⟨_, h3⟩ | ⟨hm, _⟩ | h1
  · omega
  · unfold twoByteOpcodes at hm
    fin_cases hm <;> rfl
  · omega

theorem isInvalid_decodeCB (op2 : Byte) : isInvalid (decodeCB op2) = false := by
  unfold decodeCB
  dsimp only
  split
  case h_1 => split <;> rfl
  all_goals rfl

/-- No instruction with an operand byte is an invalid opcode's (R96). -/
theorem isInvalid_decode_of_operands {op : Byte} (hl : opcodeLength op ≠ 1) (b1 b2 : Byte) :
    isInvalid (decode op b1 b2) = false := by
  rcases opcodeLength_spec op with ⟨hm, _⟩ | ⟨hm, _⟩ | h1
  · unfold threeByteOpcodes at hm
    fin_cases hm <;> rfl
  · by_cases hcb : op = 0xCB
    · subst hcb
      exact isInvalid_decodeCB b1
    · unfold twoByteOpcodes at hm
      fin_cases hm
      · contradiction
      all_goals rfl
  · exact absurd h1 hl

theorem opcodeLength_of_mem_invalidOpcodes : ∀ op ∈ invalidOpcodes, opcodeLength op = 1 := by decide

/-- Whether a first byte is an invalid opcode does not depend on the bytes after it (R96). -/
theorem isInvalid_decode_iff (op b1 b2 : Byte) : isInvalid (decode op b1 b2) = true ↔ op ∈ invalidOpcodes := by
  by_cases hl : opcodeLength op = 1
  · have table : ∀ op : Byte, isInvalid (decode op 0 0) = true ↔ op ∈ invalidOpcodes := by decide
    rw [decode_of_length_one hl]
    exact table op
  · rw [isInvalid_decode_of_operands hl]
    exact ⟨nofun, fun hm => absurd (opcodeLength_of_mem_invalidOpcodes op hm) hl⟩

theorem decodeBytes_of_length_one {op : Byte} (hl : opcodeLength op = 1) (rest : List Byte) :
    decodeBytes (op :: rest) = .ok (decode op 0 0, rest) := by
  simp only [decodeBytes, hl]

/-! ## The hard lock (R195, R221) -/

/-- An invalid opcode locks the core and does nothing else (R195). -/
theorem exec_of_isInvalid {i : Instr} (h : isInvalid i = true) (s : State) : exec i s = .next (hardLock s) := by
  cases i with
  | invalidD3 => rfl
  | invalidDB => rfl
  | invalidDD => rfl
  | invalidE3 => rfl
  | invalidE4 => rfl
  | invalidEB => rfl
  | invalidEC => rfl
  | invalidED => rfl
  | invalidF4 => rfl
  | invalidFC => rfl
  | invalidFD => rfl
  | _ => exact nomatch h

/-- The step of a locked core is Platform's action alone (R221, R222). -/
theorem step_of_locked {s : State} (h : s.mode = .locked) : step s = .next (platformAct s) := by
  simp only [step, cpuStep, platformAct_mode, h]

/-- Settles O5: the first bytes by `isInvalid_decode_iff`, the lock by `exec_of_isInvalid` and `step_of_locked`. -/
theorem invalidOpcodesLock : Obligations.InvalidOpcodesLock := by
  refine ⟨isInvalid_decode_iff, fun op hop b1 b2 rest => ?_, fun i s h => exec_of_isInvalid h s, fun s => step_of_locked⟩
  have hl := opcodeLength_of_mem_invalidOpcodes op hop
  rw [decode_of_length_one hl b1 b2]
  exact decodeBytes_of_length_one hl rest

/-! ## Fetch and execution of one instruction (R81, R82) -/

/-- A fetch decodes the first three bytes that `Fetch8` gives, and leaves PC after as many as the opcode's length says: the
bytes beyond it do not matter, and are not fetched (R81). -/
theorem fetchInstr_eq (s : State) :
    fetchInstr s =
      (decode (fetch8 s).1 (fetch8 (fetch8 s).2).1 (fetch8 (fetch8 (fetch8 s).2).2).1,
        if opcodeLength (fetch8 s).1 = 1 then (fetch8 s).2
        else if opcodeLength (fetch8 s).1 = 2 then (fetch8 (fetch8 s).2).2
        else (fetch8 (fetch8 (fetch8 s).2).2).2) := by
  unfold fetchInstr
  dsimp only
  split
  case h_1 hl => rw [if_pos hl, decode_of_length_one hl (fetch8 _).1]
  case h_2 hl => rw [if_neg (by omega), if_pos hl, decode_of_length_two hl _ (fetch8 _).1]
  case h_3 h1 h2 => rw [if_neg h1, if_neg h2]

/-- Settles O8: `fetchInstr_eq`, and what `fetch8` and the EI delay do. -/
theorem executeOneRule : Obligations.ExecuteOneRule := by
  refine ⟨fun s => ?_, fun s => ?_⟩
  · rcases fetch8_spec s with ⟨hb, e⟩ | ⟨hb, e⟩ <;> simp only [e, hb, if_true, Bool.false_eq_true, if_false]
  · unfold executeOne
    rw [fetchInstr_eq]
    rfl

/-! ## The operand tables (R84 to R88) -/

/-- A pair reads back what was written to it (R12, R85). -/
@[simp] theorem readR16_writeR16_same (s : State) (r : R16) (v : Word) : readR16 (writeR16 s r v) r = v := by
  cases r with
  | bc => exact word_hiByte_loByte v
  | de => exact word_hiByte_loByte v
  | hl => exact word_hiByte_loByte v
  | sp => rfl

/-- The four pairs share no register (R23, R85). -/
theorem readR16_writeR16_other (s : State) {r q : R16} (v : Word) (h : q ≠ r) :
    readR16 (writeR16 s r v) q = readR16 s q := by
  cases r with
  | bc => cases q with
    | bc => contradiction
    | _ => rfl
  | de => cases q with
    | de => contradiction
    | _ => rfl
  | hl => cases q with
    | hl => contradiction
    | _ => rfl
  | sp => cases q with
    | sp => contradiction
    | _ => rfl

/-- Settles O29: each clause but one is a row of its table read off; the pairs written and read back are
`readR16_writeR16_same` and `readR16_writeR16_other`. -/
theorem operandTables : Obligations.OperandTables := by
  refine ⟨?r8_read, ?r8_write, ?r16_read, ?r16stk_read, ?r16_write, ?r16mem_addr, ?r16mem_hl, ?cond⟩
  case r8_read => exact fun s => ⟨rfl, rfl, rfl, rfl, rfl, rfl, rfl, rfl⟩
  case r8_write => exact fun s v => ⟨rfl, rfl, rfl, rfl, rfl, rfl, rfl, rfl⟩
  case r16_read => exact fun s => ⟨rfl, rfl, rfl, rfl⟩
  case r16stk_read => exact fun s => ⟨rfl, rfl, rfl, rfl⟩
  case r16_write =>
    exact fun s v r => ⟨readR16_writeR16_same s r v, fun q h => readR16_writeR16_other s v h⟩
  case r16mem_addr => exact fun s => ⟨rfl, rfl, rfl, rfl⟩
  case r16mem_hl => exact fun s => ⟨rfl, rfl, rfl, rfl⟩
  case cond => exact fun f => ⟨rfl, rfl, rfl, rfl⟩

end Sys2Proof.Encoding
end

section
/-! PROOFS of the statements about the instructions of Block 0 and `ld r8, r8` (40_block0.md R111 to R131,
41_block1_ld_r8_r8_halt.md R141), with the facts about encodings, the step and machine arithmetic that they rest on. -/
namespace Sys2Proof.Block0
open Sys2Proof.Machine Sys2Proof.Encoding

/-! ## What bytes an instruction is decoded from (R81, R98) -/

/-- One byte encodes what it decodes to, when no byte of operands belongs to it. -/
theorem encodes_of_length_one {op : Byte} {i : Instr} (hl : opcodeLength op = 1) (hd : decode op 0 0 = i) :
    Encodes [op] i := by
  subst hd
  exact decodeBytes_of_length_one hl

theorem encodes_of_length_two {op b1 : Byte} {i : Instr} (hl : opcodeLength op = 2) (hd : decode op b1 0 = i) :
    Encodes [op, b1] i := by
  subst hd
  intro rest
  simp only [List.cons_append, List.nil_append, decodeBytes, hl]

theorem encodes_of_length_three {op b1 b2 : Byte} {i : Instr} (hl : opcodeLength op = 3) (hd : decode op b1 b2 = i) :
    Encodes [op, b1, b2] i := by
  subst hd
  intro rest
  simp only [List.cons_append, List.nil_append, decodeBytes, hl]

/-! ## The fields of an opcode (R92 to R95) -/

@[simp] theorem bits76_append (x : BitVec 2) (y z : BitVec 3) : bits76 (x ++ y ++ z) = x := by
  rw [bits76, BitVec.append_assoc]
  exact BitVec.extractLsb'_append_eq_left

@[simp] theorem bits53_append (x : BitVec 2) (y z : BitVec 3) : bits53 (x ++ y ++ z) = y := by
  rw [bits53, BitVec.extractLsb'_append_eq_of_le (by omega)]
  exact BitVec.extractLsb'_append_eq_right

@[simp] theorem bits20_append (x : BitVec 2) (y z : BitVec 3) : bits20 (x ++ y ++ z) = z :=
  BitVec.extractLsb'_append_eq_right

/-- The decoder reads an `r8` field as the encoder writes it (R84). -/
@[simp] theorem ofBits_bits_r8 (o : R8) : R8.ofBits o.bits = o := by
  cases o <;> rfl

/-- The bits 110 name `[hl]` and nothing else (R84). -/
theorem r8_bits_eq_six_iff (o : R8) : o.bits = 6 ↔ o = .hlInd := by
  cases o <;> decide

/-- Every instruction of Block 1 is one byte long (R98). -/
theorem opcodeLength_block1 : ∀ y z : BitVec 3, opcodeLength (0b01#2 ++ y ++ z) = 1 := by decide

/-- R93: in Block 1 every pair of `r8` operands but `[hl]`, `[hl]`, whose bits are those of `halt`, encodes its load. -/
theorem encodes_ldR8R8 {dst src : R8} (h : ¬ (dst = .hlInd ∧ src = .hlInd)) :
    Encodes [0b01#2 ++ dst.bits ++ src.bits] (.ldR8R8 dst src) := by
  have not_halt : 0b01#2 ++ dst.bits ++ src.bits ≠ (0x76 : Byte) := fun e =>
    h ⟨(r8_bits_eq_six_iff dst).mp ((bits53_append _ _ _).symm.trans (congrArg bits53 e)),
      (r8_bits_eq_six_iff src).mp ((bits20_append _ _ _).symm.trans (congrArg bits20 e))⟩
  refine encodes_of_length_one (opcodeLength_block1 _ _) ?_
  simp only [decode, bits76_append, decodeBlock1, if_neg not_halt, bits53_append, bits20_append, ofBits_bits_r8]
  rfl

/-! ## A step that executes an instruction (R222) -/

/-- A running core executes an instruction when no interrupt is dispatched instead. -/
theorem cpuStep_eq_executeOne {s : State} (hm : s.mode = .running) (hd : s.ime = false ∨ s.pending = 0) :
    cpuStep s = executeOne s := by
  have no_dispatch : (s.ime && s.hasPending) = false := by
    rcases hd with h | h <;> simp [State.hasPending, h]
  simp [cpuStep, hm, dispatchOrExecute, no_dispatch]

/-- A `Fetch8` of a byte that Platform does not answer for advances PC and changes nothing else (R82). -/
theorem fetch8_of_byteAt {s : State} {v : Byte} (hb : s.haltBug = false) (hv : s.byteAt s.pc = some v) :
    fetch8 s = (v, { s with pc := s.pc + 1 }) := by
  simp [fetch8, memRead_of_byteAt hv, hb]

/-- A one-byte instruction is fetched by one `Fetch8` (R81). -/
theorem fetchInstr_of_length_one {s t : State} {op : Byte} (hf : fetch8 s = (op, t)) (hl : opcodeLength op = 1) :
    fetchInstr s = (decode op 0 0, t) := by
  simp [fetchInstr, hf, hl]

/-- Settles O34: the step is one `Fetch8`, and neither `nop` nor the EI delay, which is not armed, changes anything. -/
theorem nopRule : Obligations.NopRule := by
  refine ⟨encodes_of_length_one rfl rfl, fun s => rfl, fun s => ?_⟩
  intro u hmode hdispatch hbug hei hbyte
  have fetched : fetchInstr u = (.nop, { u with pc := u.pc + 1 }) :=
    fetchInstr_of_length_one (fetch8_of_byteAt hbug hbyte) rfl
  calc step s = executeOne u := cpuStep_eq_executeOne hmode hdispatch
    _ = .next { u with pc := u.pc + 1 } := by rw [executeOne, fetched, hei]; rfl

/-! ## Arithmetic of words in terms of numbers (R11, R12) -/

theorem ofNat_toNat_add_mod {w : Nat} (v : BitVec w) (k : Nat) :
    BitVec.ofNat w ((v.toNat + k) % 2 ^ w) = v + BitVec.ofNat w k :=
  BitVec.eq_of_toNat_eq (by simp)

theorem ofInt_toNat_sub {w : Nat} (v : BitVec w) (k : Nat) :
    BitVec.ofInt w (v.toNat - k) = v - BitVec.ofNat w k := by
  rw [Int.sub_eq_add_neg, BitVec.ofInt_add, BitVec.ofInt_neg, BitVec.ofInt_natCast, BitVec.ofInt_natCast,
    BitVec.ofNat_toNat, BitVec.setWidth_eq, BitVec.sub_eq_add_neg]

theorem add_one_eq_ofNat {w : Nat} (v : BitVec w) : v + 1 = BitVec.ofNat w ((v.toNat + 1) % 2 ^ w) :=
  (ofNat_toNat_add_mod v 1).symm

theorem sub_one_eq_ofInt {w : Nat} (v : BitVec w) : v - 1 = BitVec.ofInt w (v.toNat - 1) :=
  (ofInt_toNat_sub v 1).symm

/-- Adding a sign-extended displacement adds the signed number (R12, R130). -/
theorem ofInt_toNat_add_toInt (v : Word) (e : Byte) : BitVec.ofInt 16 (v.toNat + e.toInt) = v + sext16 e := by
  rw [BitVec.ofInt_add, BitVec.ofInt_natCast, BitVec.ofNat_toNat, BitVec.setWidth_eq]
  rfl

/-! ## 16-bit loads and arithmetic (R112 to R118) -/

theorem encodes_ldR16Imm16 (r : R16) (lo hi : Byte) :
    Encodes [0b00#2 ++ r.bits ++ 0b0001#4, lo, hi] (.ldR16Imm16 r (hi ++ lo)) := by
  cases r <;> exact encodes_of_length_three rfl rfl

/-- Settles O35: the encodings, and the arms of `ld r16, imm16` and `ld [imm16], sp` read off. -/
theorem sixteenBitLoads : Obligations.SixteenBitLoads := by
  refine ⟨encodes_ldR16Imm16, ?load, ?storeBytes, ?store⟩
  case load => exact fun imm s => ⟨rfl, rfl, rfl, rfl⟩
  case storeBytes => exact fun lo hi => encodes_of_length_three rfl rfl
  case store => exact fun addr s => rfl

theorem encodes_ldR16MemA (m : R16Mem) : Encodes [0b00#2 ++ m.bits ++ 0b0010#4] (.ldR16MemA m) := by
  cases m <;> exact encodes_of_length_one rfl rfl

theorem encodes_ldAR16Mem (m : R16Mem) : Encodes [0b00#2 ++ m.bits ++ 0b1010#4] (.ldAR16Mem m) := by
  cases m <;> exact encodes_of_length_one rfl rfl

/-- Settles O36: neither the store nor the load changes HL, so the change after the access starts from the old HL. -/
theorem r16MemLoads : Obligations.R16MemLoads := by
  refine ⟨fun m => ⟨encodes_ldR16MemA m, encodes_ldAR16Mem m⟩, ?store, ?load⟩
  case store => exact fun s => ⟨rfl, rfl, rfl, rfl⟩
  case load => exact fun s => ⟨rfl, rfl, rfl, rfl⟩

theorem encodes_incR16 (r : R16) : Encodes [0b00#2 ++ r.bits ++ 0b0011#4] (.incR16 r) := by
  cases r <;> exact encodes_of_length_one rfl rfl

theorem encodes_decR16 (r : R16) : Encodes [0b00#2 ++ r.bits ++ 0b1011#4] (.decR16 r) := by
  cases r <;> exact encodes_of_length_one rfl rfl

theorem encodes_addHlR16 (r : R16) : Encodes [0b00#2 ++ r.bits ++ 0b1001#4] (.addHlR16 r) := by
  cases r <;> exact encodes_of_length_one rfl rfl

/-- The sum of R118 from the sum of the numbers. -/
theorem add16_eq (f : Flags) (a b : Word) :
    add16 f a b = (BitVec.ofNat 16 ((a.toNat + b.toNat) % 65536),
      ⟨f.z, false, decide (4095 < a.toNat % 4096 + b.toNat % 4096), decide (65535 < a.toNat + b.toNat)⟩) := by
  have sum : BitVec.ofNat 16 ((a.toNat + b.toNat) % 65536) = a + b := by
    simpa using ofNat_toNat_add_mod a b.toNat
  rw [sum]
  rfl

theorem exec_incR16 (r : R16) (s : State) : exec (.incR16 r) s = .next (writeR16 s r (readR16 s r + 1)) := rfl

theorem exec_decR16 (r : R16) (s : State) : exec (.decR16 r) s = .next (writeR16 s r (readR16 s r - 1)) := rfl

theorem exec_addHlR16 (r : R16) (s : State) :
    exec (.addHlR16 r) s =
      .next { writeR16 s .hl (add16 s.f s.hl (readR16 s r)).1 with f := (add16 s.f s.hl (readR16 s r)).2 } := rfl

/-- Settles O37: the sums and differences by `add_one_eq_ofNat`, `sub_one_eq_ofInt` and `add16_eq`. -/
theorem sixteenBitArithmetic : Obligations.SixteenBitArithmetic := by
  refine ⟨fun r => ⟨encodes_incR16 r, encodes_decR16 r, encodes_addHlR16 r⟩, fun r s => ⟨?inc, ?dec, ?add⟩⟩
  case inc =>
    rw [exec_incR16, add_one_eq_ofNat]
    rfl
  case dec => rw [exec_decR16, sub_one_eq_ofInt]
  case add => rw [exec_addHlR16, add16_eq]

/-! ## 8-bit increment, decrement and loads (R119 to R121, R141) -/

theorem encodes_incR8 (o : R8) : Encodes [0b00#2 ++ o.bits ++ 0b100#3] (.incR8 o) := by
  cases o <;> exact encodes_of_length_one rfl rfl

theorem encodes_decR8 (o : R8) : Encodes [0b00#2 ++ o.bits ++ 0b101#3] (.decR8 o) := by
  cases o <;> exact encodes_of_length_one rfl rfl

theorem encodes_ldR8Imm8 (o : R8) (imm : Byte) : Encodes [0b00#2 ++ o.bits ++ 0b110#3, imm] (.ldR8Imm8 o imm) := by
  cases o <;> exact encodes_of_length_two rfl rfl

/-- The increment of R119 from the number: the result is 0 after 255 only. -/
theorem inc8_eq (f : Flags) (v : Byte) :
    inc8 f v = (BitVec.ofNat 8 ((v.toNat + 1) % 256),
      ⟨decide (v.toNat = 255), false, decide (v.toNat % 16 = 15), f.c⟩) := by
  have zero_iff : (v + 1 == 0) = decide (v.toNat = 255) := by
    rw [beq_eq_decide]
    exact decide_eq_decide.mpr (by bv_omega)
  rw [inc8, zero_iff, add_one_eq_ofNat]
  rfl

/-- The decrement of R120 from the number: the result is 0 after 1 only. -/
theorem dec8_eq (f : Flags) (v : Byte) :
    dec8 f v = (BitVec.ofInt 8 (v.toNat - 1),
      ⟨decide (v.toNat = 1), true, decide (v.toNat % 16 = 0), f.c⟩) := by
  have zero_iff : (v - 1 == 0) = decide (v.toNat = 1) := by
    rw [beq_eq_decide]
    exact decide_eq_decide.mpr (by bv_omega)
  rw [dec8, zero_iff, sub_one_eq_ofInt]

theorem exec_incR8 (o : R8) (s : State) : exec (.incR8 o) s = .next (modifyR8 s o (inc8 s.f)) := rfl

theorem exec_decR8 (o : R8) (s : State) : exec (.decR8 o) s = .next (modifyR8 s o (dec8 s.f)) := rfl

/-- Settles O38: the operand goes through `inc8` or `dec8` (`modifyR8_eq`). -/
theorem eightBitIncDec : Obligations.EightBitIncDec := by
  intro o s
  refine ⟨encodes_incR8 o, encodes_decR8 o, ?inc, ?dec⟩
  case inc => rw [exec_incR8, modifyR8_eq, inc8_eq]
  case dec => rw [exec_decR8, modifyR8_eq, dec8_eq]

/-- A register copied to itself changes nothing. -/
theorem writeR8_readR8_self (s : State) {o : R8} (h : o ≠ .hlInd) : writeR8 (readR8 s o).2 o (readR8 s o).1 = s := by
  cases o with
  | hlInd => contradiction
  | _ => rfl

/-- Settles O39: the encodings by `encodes_ldR8Imm8` and `encodes_ldR8R8`, the self-copy by `writeR8_readR8_self`. -/
theorem eightBitLoads : Obligations.EightBitLoads := by
  refine ⟨?immediate, ?copy, ?selfCopy⟩
  case immediate => exact fun o imm s => ⟨encodes_ldR8Imm8 o imm, rfl⟩
  case copy => exact fun dst src s => ⟨encodes_ldR8R8, rfl⟩
  case selfCopy => exact fun o s h => congrArg Host.Outcome.next (writeR8_readR8_self s h)

/-! ## Rotates of A, `cpl`, `scf`, `ccf` (R122 to R125, R127 to R129) -/

/-- R122 as a rotation of the word. -/
theorem rotateLeft_eq (v : Byte) : rotateLeft v = (v.rotateLeft 1, v.getLsbD 7) := by
  refine Prod.ext (BitVec.eq_of_getLsbD_eq fun i hi => ?_) rfl
  simp only [rotateLeft, BitVec.getLsbD_append, BitVec.getLsbD_rotateLeft, BitVec.getLsbD_extractLsb']
  by_cases h : i = 0
  · simp [h]
  · simp [show ¬ i < 1 by omega, hi, show i - 1 < 7 by omega]

/-- R123 as a rotation of the word. -/
theorem rotateRight_eq (v : Byte) : rotateRight v = (v.rotateRight 1, v.getLsbD 0) := by
  refine Prod.ext (BitVec.eq_of_getLsbD_eq fun i hi => ?_) rfl
  simp only [rotateRight, BitVec.getLsbD_append, BitVec.getLsbD_rotateRight, BitVec.getLsbD_extractLsb']
  by_cases h : i < 7
  · simp [h]
  · simp [show i = 7 by omega]

/-- R124: the doubled number plus the carry, modulo 2^8. -/
theorem rotateLeftCarry_eq (cin : Bool) (v : Byte) :
    rotateLeftCarry cin v = (BitVec.ofNat 8 ((2 * v.toNat + cin.toNat) % 256), v.getLsbD 7) := by
  refine Prod.ext (BitVec.eq_of_toNat_eq ?_) rfl
  have hc := cin.toNat_lt
  calc (rotateLeftCarry cin v).1.toNat = (v.extractLsb' 0 7).toNat * 2 + cin.toNat := BitVec.toNat_concat _ cin
    _ = v.toNat % 128 * 2 + cin.toNat := by simp
    _ = (2 * v.toNat + cin.toNat) % 256 := by omega
    _ = _ := by simp

/-- R125: half the number, with the carry at bit 7. -/
theorem rotateRightCarry_eq (cin : Bool) (v : Byte) :
    rotateRightCarry cin v = (BitVec.ofNat 8 (v.toNat / 2 + 128 * cin.toNat), v.getLsbD 0) := by
  refine Prod.ext (BitVec.eq_of_toNat_eq ?_) rfl
  have hc := cin.toNat_lt
  calc (rotateRightCarry cin v).1.toNat = cin.toNat <<< 7 + (v.extractLsb' 1 7).toNat := BitVec.toNat_cons'
    _ = cin.toNat * 128 + v.toNat / 2 % 128 := by simp [Nat.shiftLeft_eq, Nat.shiftRight_eq_div_pow]
    _ = (v.toNat / 2 + 128 * cin.toNat) % 256 := by omega
    _ = _ := by simp

theorem exec_rlca (s : State) : exec .rlca s = .next (setAAndF s (rotateAFlags (rotateLeft s.a))) := rfl

theorem exec_rrca (s : State) : exec .rrca s = .next (setAAndF s (rotateAFlags (rotateRight s.a))) := rfl

theorem exec_rla (s : State) : exec .rla s = .next (setAAndF s (rotateAFlags (rotateLeftCarry s.f.c s.a))) := rfl

theorem exec_rra (s : State) : exec .rra s = .next (setAAndF s (rotateAFlags (rotateRightCarry s.f.c s.a))) := rfl

theorem setAAndF_rotateAFlags (s : State) (v : Byte) (c : Bool) :
    setAAndF s (rotateAFlags (v, c)) = { s with a := v, f := ⟨false, false, false, c⟩ } := rfl

/-- Settles O40: each rotation in the terms of the statement, then A and F written by `setAAndF_rotateAFlags`. -/
theorem accumulatorRotates : Obligations.AccumulatorRotates := by
  refine ⟨encodes_of_length_one rfl rfl, encodes_of_length_one rfl rfl, encodes_of_length_one rfl rfl,
    encodes_of_length_one rfl rfl, fun s => ⟨?rlca, ?rrca, ?rla, ?rra⟩⟩
  case rlca => rw [exec_rlca, rotateLeft_eq, setAAndF_rotateAFlags]
  case rrca => rw [exec_rrca, rotateRight_eq, setAAndF_rotateAFlags]
  case rla => rw [exec_rla, rotateLeftCarry_eq, setAAndF_rotateAFlags]
  case rra => rw [exec_rra, rotateRightCarry_eq, setAAndF_rotateAFlags]

theorem exec_cpl (s : State) :
    exec .cpl s = .next { s with a := s.a ^^^ BitVec.allOnes 8, f := ⟨s.f.z, true, true, s.f.c⟩ } := rfl

/-- Settles O43: the exclusive OR of R127 with all ones is the complement; the rest is read off. -/
theorem cplScfCcf : Obligations.CplScfCcf := by
  refine ⟨encodes_of_length_one rfl rfl, encodes_of_length_one rfl rfl, encodes_of_length_one rfl rfl,
    fun s => ⟨?cpl, rfl, rfl⟩⟩
  case cpl => rw [exec_cpl, BitVec.xor_allOnes]

/-! ## `daa` (R126) -/

theorem daaFixesLow_of_add {f : Flags} (hn : f.n = false) (a : Byte) :
    daaFixesLow f a = (f.h || decide (9 < a.toNat % 16)) := by
  simp [daaFixesLow, hn]

theorem daaFixesHigh_of_add {f : Flags} (hn : f.n = false) (a : Byte) :
    daaFixesHigh f a = (f.c || decide (0x99 < a.toNat)) := by
  simp [daaFixesHigh, hn]

theorem daaFixesLow_of_sub {f : Flags} (hn : f.n = true) (a : Byte) : daaFixesLow f a = f.h := by
  simp [daaFixesLow, hn]

theorem daaFixesHigh_of_sub {f : Flags} (hn : f.n = true) (a : Byte) : daaFixesHigh f a = f.c := by
  simp [daaFixesHigh, hn]

/-- Adding the two corrections as numbers. -/
theorem ofNat_add_corrections (a : Byte) (low high : Bool) :
    BitVec.ofNat 8 ((a.toNat + (if low then 6 else 0) + (if high then 96 else 0)) % 256) =
      a + ((if low then 0x06 else 0x00) + (if high then 0x60 else 0x00)) := by
  rw [Nat.add_assoc]
  refine (ofNat_toNat_add_mod a _).trans ?_
  cases low <;> cases high <;> rfl

/-- Subtracting the two corrections as numbers. -/
theorem ofInt_sub_corrections (a : Byte) (low high : Bool) :
    BitVec.ofInt 8 (a.toNat - (if low then 6 else 0) - (if high then 96 else 0)) =
      a - ((if low then 0x06 else 0x00) + (if high then 0x60 else 0x00)) := by
  rw [Int.sub_sub]
  refine Eq.trans ?_ ((ofInt_toNat_sub a ((if low then 6 else 0) + (if high then 96 else 0))).trans ?_)
  · cases low <;> cases high <;> rfl
  · cases low <;> cases high <;> rfl

theorem exec_daa (s : State) : exec .daa s = .next (setAAndF s (daaResult s.f s.a)) := rfl

/-- Settles O41: after an addition and after a subtraction the corrections are those of R126, and A takes their sum. -/
theorem daaRule : Obligations.DaaRule := by
  refine ⟨encodes_of_length_one rfl rfl, fun s => ⟨fun hn => ?add, fun hn => ?sub⟩⟩
  case add =>
    intro lowFix highFix r
    have new_a : r = s.a + daaAdjust s.f s.a := by
      rw [daaAdjust, daaFixesLow_of_add hn, daaFixesHigh_of_add hn]
      exact ofNat_add_corrections s.a lowFix highFix
    have result : daaResult s.f s.a = (r, ⟨decide (r = 0), false, false, highFix⟩) := by
      simp [daaResult, hn, new_a, daaFixesHigh_of_add hn, highFix, beq_eq_decide]
    rw [exec_daa, result]
    rfl
  case sub =>
    intro r
    have new_a : r = s.a - daaAdjust s.f s.a := by
      rw [daaAdjust, daaFixesLow_of_sub hn, daaFixesHigh_of_sub hn]
      exact ofInt_sub_corrections s.a s.f.h s.f.c
    have result : daaResult s.f s.a = (r, ⟨decide (r = 0), true, false, s.f.c⟩) := by
      simp [daaResult, hn, new_a, daaFixesHigh_of_sub hn, beq_eq_decide]
    rw [exec_daa, result]
    rfl

/-! ## Relative jumps (R130, R131) -/

theorem encodes_jrCondImm8 (cc : Cond) (e : Byte) :
    Encodes [0b001#3 ++ cc.bits ++ 0b000#3, e] (.jrCondImm8 cc e) := by
  cases cc <;> exact encodes_of_length_two rfl rfl

theorem jumpRelative_eq (s : State) (e : Byte) :
    jumpRelative s e = { s with pc := BitVec.ofInt 16 (s.pc.toNat + e.toInt) } := by
  rw [ofInt_toNat_add_toInt]
  rfl

/-- The conditional jump by its condition (R131). -/
theorem exec_jrCondImm8 (cc : Cond) (e : Byte) (s : State) :
    exec (.jrCondImm8 cc e) s = .next (if condHolds s.f cc then jumpRelative s e else s) := rfl

/-- Settles O44: both forms by `jumpRelative_eq`. -/
theorem relativeJumps : Obligations.RelativeJumps := by
  refine ⟨fun e => encodes_of_length_two rfl rfl, encodes_jrCondImm8, fun e s => ?always,
    fun cc e s => ⟨?taken, ?notTaken⟩⟩
  case always => exact congrArg Host.Outcome.next (jumpRelative_eq s e)
  case taken =>
    intro hc
    rw [exec_jrCondImm8, if_pos hc, jumpRelative_eq]
  case notTaken =>
    intro hc
    simp [exec_jrCondImm8, hc]

end Sys2Proof.Block0
end

section
/-! PROOFS of the statement about `halt` (41_block1_ld_r8_r8_halt.md R142), with what it does in each of its cases. -/
namespace Sys2Proof.Block1
open Sys2Proof.Machine Sys2Proof.Block0

/-! ## Whether a request is pending (R228) -/

theorem hasPending_of_pending_ne_zero {s : State} (h : s.pending ≠ 0) : s.hasPending = true := bne_iff_ne.mpr h

theorem hasPending_of_pending_eq_zero {s : State} (h : s.pending = 0) : s.hasPending = false :=
  bne_eq_false_iff_eq.mpr h

/-! ## `halt` (R142) -/

theorem exec_halt (s : State) : exec .halt s = execHalt s := rfl

/-- The situation to which the spec gives no meaning (U4). -/
theorem execHalt_refused {s : State} (hei : s.eiPending = true) (hp : s.hasPending = true) :
    execHalt s = .refused .haltAfterEiWithRequest := by
  simp [execHalt, hei, hp]

/-- The HALT bug: the core does not halt, and the next fetch will not advance PC (R271). -/
theorem execHalt_haltBug {s : State} (hei : s.eiPending = false) (hime : s.ime = false) (hp : s.hasPending = true) :
    execHalt s = .next { s with haltBug := true } := by
  simp [execHalt, hei, hime, hp]

/-- With IME = 1 a pending request does not keep the core from halting: it wakes it in the next step (R236). -/
theorem execHalt_halted_of_ime {s : State} (hei : s.eiPending = false) (hime : s.ime = true) :
    execHalt s = .next { s with mode := .halted } := by
  simp [execHalt, hei, hime]

/-- With nothing pending the core halts, whatever IME and `ei_pending` are. -/
theorem execHalt_halted_of_not_hasPending {s : State} (hp : s.hasPending = false) :
    execHalt s = .next { s with mode := .halted } := by
  simp [execHalt, hp]

/-- Settles O16: the encoding, and one clause for each case of `execHalt`. -/
theorem haltRule : Obligations.HaltRule := by
  refine ⟨encodes_of_length_one rfl rfl, ?refused, ?haltBug, ?halted, ?nothingPending⟩
  case refused =>
    intro s hei hp
    rw [exec_halt, execHalt_refused hei (hasPending_of_pending_ne_zero hp)]
  case haltBug =>
    intro s hei hime hp
    rw [exec_halt, execHalt_haltBug hei hime (hasPending_of_pending_ne_zero hp)]
  case halted =>
    intro s hei hime
    rw [exec_halt, execHalt_halted_of_ime hei hime]
  case nothingPending =>
    intro s hp
    rw [exec_halt, execHalt_halted_of_not_hasPending (hasPending_of_pending_eq_zero hp)]

end Sys2Proof.Block1
end

section
/-! PROOFS of the statement about Block 2 (42_block2_alu8.md R145 to R153): the encodings of its eight operations, each
operation on bytes in terms of numbers, and what the instruction makes of it. -/
namespace Sys2Proof.Block2
open Sys2Proof.Machine Sys2Proof.Encoding Sys2Proof.Block0

/-! ## Encodings (R94) -/

/-- Every instruction of Block 2 is one byte long (R98). -/
theorem opcodeLength_block2 : ∀ k z : BitVec 3, opcodeLength (0b10#2 ++ k ++ z) = 1 := by decide

/-- In Block 2 bits 5 to 3 select a row `row` of the table and bits 2 to 0 its operand (R94). -/
theorem encodes_block2 {k : BitVec 3} {row : R8 → Instr}
    (hrow : ∀ op, bits53 op = k → decodeBlock2 op = row (R8.ofBits (bits20 op))) (o : R8) :
    Encodes [0b10#2 ++ k ++ o.bits] (row o) := by
  refine encodes_of_length_one (opcodeLength_block2 k o.bits) ?_
  calc decode (0b10#2 ++ k ++ o.bits) 0 0 = decodeBlock2 (0b10#2 ++ k ++ o.bits) := by simp [decode]
    _ = row (R8.ofBits (bits20 (0b10#2 ++ k ++ o.bits))) := hrow _ (bits53_append _ _ _)
    _ = row o := by rw [bits20_append, ofBits_bits_r8]

theorem encodes_addAR8 (o : R8) : Encodes [0b10000#5 ++ o.bits] (.addAR8 o) :=
  encodes_block2 (k := 0) (fun op hk => by simp [decodeBlock2, hk]) o

theorem encodes_adcAR8 (o : R8) : Encodes [0b10001#5 ++ o.bits] (.adcAR8 o) :=
  encodes_block2 (k := 1) (fun op hk => by simp [decodeBlock2, hk]) o

theorem encodes_subAR8 (o : R8) : Encodes [0b10010#5 ++ o.bits] (.subAR8 o) :=
  encodes_block2 (k := 2) (fun op hk => by simp [decodeBlock2, hk]) o

theorem encodes_sbcAR8 (o : R8) : Encodes [0b10011#5 ++ o.bits] (.sbcAR8 o) :=
  encodes_block2 (k := 3) (fun op hk => by simp [decodeBlock2, hk]) o

theorem encodes_andAR8 (o : R8) : Encodes [0b10100#5 ++ o.bits] (.andAR8 o) :=
  encodes_block2 (k := 4) (fun op hk => by simp [decodeBlock2, hk]) o

theorem encodes_xorAR8 (o : R8) : Encodes [0b10101#5 ++ o.bits] (.xorAR8 o) :=
  encodes_block2 (k := 5) (fun op hk => by simp [decodeBlock2, hk]) o

theorem encodes_orAR8 (o : R8) : Encodes [0b10110#5 ++ o.bits] (.orAR8 o) :=
  encodes_block2 (k := 6) (fun op hk => by simp [decodeBlock2, hk]) o

theorem encodes_cpAR8 (o : R8) : Encodes [0b10111#5 ++ o.bits] (.cpAR8 o) :=
  encodes_block2 (k := 7) (fun op hk => by simp [decodeBlock2, hk]) o

/-! ## The eight operations in terms of numbers (R146 to R153) -/

/-- A byte made from a number is zero when the number is a multiple of 2^8. -/
theorem ofNat_eq_zero_iff (n : Nat) : BitVec.ofNat 8 n = 0 ↔ n % 256 = 0 := by
  simp [← BitVec.toNat_inj]

theorem ofInt_eq_zero_iff (n : Int) : BitVec.ofInt 8 n = 0 ↔ n % 256 = 0 := by
  simp only [← BitVec.toNat_inj, BitVec.toNat_ofInt, BitVec.ofNat_eq_ofNat, BitVec.toNat_ofNat]
  omega

/-- The sum of R147, and with no carry in that of R146. -/
theorem add8_eq (a v : Byte) (cin : Bool) :
    add8 a v cin = (BitVec.ofNat 8 ((a.toNat + v.toNat + cin.toNat) % 256),
      ⟨decide ((a.toNat + v.toNat + cin.toNat) % 256 = 0), false,
        decide (15 < a.toNat % 16 + v.toNat % 16 + cin.toNat), decide (255 < a.toNat + v.toNat + cin.toNat)⟩) := by
  have result : BitVec.ofNat 8 ((a.toNat + v.toNat + cin.toNat) % 256) =
      BitVec.ofNat 8 (a.toNat + v.toNat + cin.toNat) := BitVec.eq_of_toNat_eq (by simp)
  simp only [add8, beq_eq_decide, ofNat_eq_zero_iff, result]

/-- The difference of R149. -/
theorem sub8_eq (a v : Byte) (cin : Bool) :
    sub8 a v cin = (BitVec.ofInt 8 (a.toNat - v.toNat - cin.toNat),
      ⟨decide ((a.toNat - v.toNat - cin.toNat : Int) % 256 = 0), true,
        decide (a.toNat % 16 < v.toNat % 16 + cin.toNat), decide (a.toNat < v.toNat + cin.toNat)⟩) := by
  have result : a - v - BitVec.ofNat 8 cin.toNat = BitVec.ofInt 8 (a.toNat - v.toNat - cin.toNat) := by
    rw [Int.sub_sub, ← Int.natCast_add, ofInt_toNat_sub, BitVec.ofNat_add, BitVec.ofNat_toNat, BitVec.setWidth_eq,
      sub_sub]
  simp only [sub8, beq_eq_decide, result, ofInt_eq_zero_iff]

/-- The difference of R148: with no carry in it is zero for equal operands only. -/
theorem sub8_false_eq (a v : Byte) :
    sub8 a v false = (BitVec.ofInt 8 (a.toNat - v.toNat),
      ⟨decide (a.toNat = v.toNat), true, decide (a.toNat % 16 < v.toNat % 16), decide (a.toNat < v.toNat)⟩) := by
  have zero_iff : (a.toNat - v.toNat : Int) % 256 = 0 ↔ a.toNat = v.toNat := by omega
  simp [sub8_eq, zero_iff]

/-- The comparison of R153, whose Z says that the operands are equal. -/
theorem cp8_eq (a v : Byte) :
    cp8 a v = ⟨decide (a = v), true, decide (a.toNat % 16 < v.toNat % 16), decide (a.toNat < v.toNat)⟩ := by
  simp only [cp8, sub8_false_eq, BitVec.toNat_inj]

theorem and8_eq (a v : Byte) : and8 a v = (a &&& v, ⟨decide (a &&& v = 0), false, true, false⟩) := by
  rw [and8, beq_eq_decide]

/-- The exclusive OR of R151 is zero for equal operands only. -/
theorem xor8_eq (a v : Byte) : xor8 a v = (a ^^^ v, ⟨decide (a = v), false, false, false⟩) := by
  have zero_iff : a ^^^ v = 0 ↔ a = v := BitVec.xor_eq_zero_iff
  simp only [xor8, beq_eq_decide, zero_iff]

/-- The OR of R152 is zero only when both operands are. -/
theorem or8_eq (a v : Byte) : or8 a v = (a ||| v, ⟨decide (a = 0 ∧ v = 0), false, false, false⟩) := by
  have zero_iff : a ||| v = 0 ↔ a = 0 ∧ v = 0 := BitVec.or_eq_zero_iff
  simp only [or8, beq_eq_decide, zero_iff]

/-! ## The instructions (R145) -/

/-- The operand is read, with what its read does, and A and F are written (R145). -/
theorem aluR8_eq (s : State) (o : R8) (op : Byte → Byte → Byte × Flags) :
    aluR8 s o op =
      { (readR8 s o).2 with a := (op s.a (readR8 s o).1).1, f := (op s.a (readR8 s o).1).2 } := rfl

theorem exec_addAR8 (o : R8) (s : State) :
    exec (.addAR8 o) s = .next (aluR8 s o fun a v => add8 a v false) := rfl

theorem exec_adcAR8 (o : R8) (s : State) :
    exec (.adcAR8 o) s = .next (aluR8 s o fun a v => add8 a v s.f.c) := rfl

theorem exec_subAR8 (o : R8) (s : State) :
    exec (.subAR8 o) s = .next (aluR8 s o fun a v => sub8 a v false) := rfl

theorem exec_sbcAR8 (o : R8) (s : State) :
    exec (.sbcAR8 o) s = .next (aluR8 s o fun a v => sub8 a v s.f.c) := rfl

theorem exec_andAR8 (o : R8) (s : State) : exec (.andAR8 o) s = .next (aluR8 s o and8) := rfl

theorem exec_xorAR8 (o : R8) (s : State) : exec (.xorAR8 o) s = .next (aluR8 s o xor8) := rfl

theorem exec_orAR8 (o : R8) (s : State) : exec (.orAR8 o) s = .next (aluR8 s o or8) := rfl

theorem exec_cpAR8 (o : R8) (s : State) :
    exec (.cpAR8 o) s = .next { (readR8 s o).2 with f := cp8 s.a (readR8 s o).1 } := rfl

/-- Settles O45: the encodings by `encodes_block2`, and A and F by the equation of each operation on bytes; `add` is `adc`
with the carry in 0. -/
theorem aluR8 : Obligations.AluR8 := by
  intro o s
  refine ⟨⟨encodes_addAR8 o, encodes_adcAR8 o, encodes_subAR8 o, encodes_sbcAR8 o, encodes_andAR8 o, encodes_xorAR8 o,
    encodes_orAR8 o, encodes_cpAR8 o⟩, ?add, ?adc, ?sub, ?sbc, ?and, ?xor, ?or, ?cp⟩
  case add =>
    rw [exec_addAR8, aluR8_eq, add8_eq]
    rfl
  case adc => rw [exec_adcAR8, aluR8_eq, add8_eq]
  case sub => rw [exec_subAR8, aluR8_eq, sub8_false_eq]
  case sbc => rw [exec_sbcAR8, aluR8_eq, sub8_eq]
  case and => rw [exec_andAR8, aluR8_eq, and8_eq]
  case xor => rw [exec_xorAR8, aluR8_eq, xor8_eq]
  case or => rw [exec_orAR8, aluR8_eq, or8_eq]
  case cp => rw [exec_cpAR8, cp8_eq]

end Sys2Proof.Block2
end

section
/-! PROOFS of the statements about Block 3, part 1 (43_block3_alu_imm_and_control.md R160 to R177): A with an immediate
byte, the absolute jumps, the calls and the returns. -/
namespace Sys2Proof.Block3Control
open Sys2Proof.Machine Sys2Proof.Block0 Sys2Proof.Block2

/-! ## A with an immediate byte (R161 to R168) -/

theorem exec_addAImm8 (v : Byte) (s : State) :
    exec (.addAImm8 v) s = .next (aluImm8 s v fun a v => add8 a v false) := rfl

theorem exec_adcAImm8 (v : Byte) (s : State) :
    exec (.adcAImm8 v) s = .next (aluImm8 s v fun a v => add8 a v s.f.c) := rfl

theorem exec_subAImm8 (v : Byte) (s : State) :
    exec (.subAImm8 v) s = .next (aluImm8 s v fun a v => sub8 a v false) := rfl

theorem exec_sbcAImm8 (v : Byte) (s : State) :
    exec (.sbcAImm8 v) s = .next (aluImm8 s v fun a v => sub8 a v s.f.c) := rfl

theorem exec_andAImm8 (v : Byte) (s : State) : exec (.andAImm8 v) s = .next (aluImm8 s v and8) := rfl

theorem exec_xorAImm8 (v : Byte) (s : State) : exec (.xorAImm8 v) s = .next (aluImm8 s v xor8) := rfl

theorem exec_orAImm8 (v : Byte) (s : State) : exec (.orAImm8 v) s = .next (aluImm8 s v or8) := rfl

theorem exec_cpAImm8 (v : Byte) (s : State) : exec (.cpAImm8 v) s = .next { s with f := cp8 s.a v } := rfl

/-- A and F take the operation's two results, and no operand is read (R161 to R167). -/
theorem aluImm8_of_eq {op : Byte → Byte → Byte × Flags} {s : State} {v result : Byte} {flags : Flags}
    (h : op s.a v = (result, flags)) : aluImm8 s v op = { s with a := result, f := flags } := by
  rw [Machine.aluImm8, h]

/-- Settles O46: A and F by the equations of the eight operations on bytes (R146 to R153); `add` is `adc` with the carry
in 0. -/
theorem aluImm8 : Obligations.AluImm8 := by
  intro v s
  refine ⟨?encodings, ?add, ?adc, ?sub, ?sbc, ?and, ?xor, ?or, ?cp⟩
  case encodings =>
    refine ⟨?_, ?_, ?_, ?_, ?_, ?_, ?_, ?_⟩ <;> exact encodes_of_length_two rfl rfl
  case add =>
    rw [exec_addAImm8, aluImm8_of_eq (add8_eq s.a v false)]
    rfl
  case adc => rw [exec_adcAImm8, aluImm8_of_eq (add8_eq s.a v s.f.c)]
  case sub => rw [exec_subAImm8, aluImm8_of_eq (sub8_false_eq s.a v)]
  case sbc => rw [exec_sbcAImm8, aluImm8_of_eq (sub8_eq s.a v s.f.c)]
  case and => rw [exec_andAImm8, aluImm8_of_eq (and8_eq s.a v)]
  case xor => rw [exec_xorAImm8, aluImm8_of_eq (xor8_eq s.a v)]
  case or => rw [exec_orAImm8, aluImm8_of_eq (or8_eq s.a v)]
  case cp => rw [exec_cpAImm8, cp8_eq]

/-! ## Absolute jumps (R172 to R174) -/

theorem encodes_jpCondImm16 (cc : Cond) (lo hi : Byte) :
    Encodes [0b110#3 ++ cc.bits ++ 0b010#3, lo, hi] (.jpCondImm16 cc (hi ++ lo)) := by
  cases cc <;> exact encodes_of_length_three rfl rfl

theorem exec_jpImm16 (addr : Word) (s : State) : exec (.jpImm16 addr) s = .next { s with pc := addr } := rfl

/-- The operand is the value of HL; the state keeps Platform's history, so no memory is read (R174). -/
theorem exec_jpHl (s : State) : exec .jpHl s = .next { s with pc := s.h ++ s.l } := rfl

/-- The conditional jump by its condition (R172). -/
theorem exec_jpCondImm16 (cc : Cond) (addr : Word) (s : State) :
    exec (.jpCondImm16 cc addr) s = .next (if condHolds s.f cc then { s with pc := addr } else s) := rfl

/-- Settles O47: the conditional form by the value of its condition. -/
theorem absoluteJumps : Obligations.AbsoluteJumps := by
  refine ⟨fun lo hi => encodes_of_length_three rfl rfl, encodes_of_length_one rfl rfl, encodes_jpCondImm16,
    exec_jpImm16, exec_jpHl, fun cc addr s => ⟨?taken, ?notTaken⟩⟩
  case taken =>
    intro hc
    rw [exec_jpCondImm16, if_pos hc]
  case notTaken =>
    intro hc
    simp [exec_jpCondImm16, hc]

/-! ## Calls and `rst` (R175 to R177) -/

theorem encodes_callCondImm16 (cc : Cond) (lo hi : Byte) :
    Encodes [0b110#3 ++ cc.bits ++ 0b100#3, lo, hi] (.callCondImm16 cc (hi ++ lo)) := by
  cases cc <;> exact encodes_of_length_three rfl rfl

/-- Every `rst` is one byte long (R98). -/
theorem opcodeLength_rst : ∀ tgt : BitVec 3, opcodeLength (0b11#2 ++ tgt ++ 0b111#3) = 1 := by decide

/-- Bits 5 to 3 of an `rst` are its target, whatever they are (R90, R95). -/
theorem encodes_rstTgt3 (tgt : BitVec 3) : Encodes [0b11#2 ++ tgt ++ 0b111#3] (.rstTgt3 tgt) := by
  refine encodes_of_length_one (opcodeLength_rst tgt) ?_
  simp [decode, decodeBlock3]

/-- The return address goes onto the stack high byte first (R60, R176). -/
theorem callTo_eq (s : State) (target : Word) :
    callTo s target =
      { memWrite (memWrite s (s.sp - 1) (s.pc.extractLsb' 8 8)) (s.sp - 2) (s.pc.extractLsb' 0 8) with
        sp := s.sp - 2, pc := target } := rfl

theorem exec_callImm16 (addr : Word) (s : State) : exec (.callImm16 addr) s = .next (callTo s addr) := rfl

/-- The conditional call by its condition (R175). -/
theorem exec_callCondImm16 (cc : Cond) (addr : Word) (s : State) :
    exec (.callCondImm16 cc addr) s = .next (if condHolds s.f cc then callTo s addr else s) := rfl

/-- A restart is a call of 8 times its field (R90, R177). -/
theorem exec_rstTgt3 (tgt : BitVec 3) (s : State) :
    exec (.rstTgt3 tgt) s = .next (callTo s (BitVec.ofNat 16 (8 * tgt.toNat))) := rfl

/-- Settles O48: each transfer that is taken is a `callTo`, which `callTo_eq` writes out. -/
theorem callsAndRst : Obligations.CallsAndRst := by
  refine ⟨fun lo hi => encodes_of_length_three rfl rfl, encodes_callCondImm16, encodes_rstTgt3,
    fun s => ⟨fun addr => ?call, fun cc addr => ⟨?taken, ?notTaken⟩, fun tgt => ?rst⟩⟩
  case call => rw [exec_callImm16, callTo_eq]
  case taken =>
    intro hc
    rw [exec_callCondImm16, if_pos hc, callTo_eq]
  case notTaken =>
    intro hc
    simp [exec_callCondImm16, hc]
  case rst => rw [exec_rstTgt3, callTo_eq]

/-! ## Returns (R169 to R171) -/

theorem encodes_retCond (cc : Cond) : Encodes [0b110#3 ++ cc.bits ++ 0b000#3] (.retCond cc) := by
  cases cc <;> exact encodes_of_length_one rfl rfl

/-- PC comes off the stack low byte first; the high byte is read in the state that the first read leaves (R61, R170). -/
theorem returnFromCall_eq (s : State) :
    returnFromCall s =
      { (memRead (memRead s s.sp).2 (s.sp + 1)).2 with
        sp := s.sp + 2, pc := (memRead (memRead s s.sp).2 (s.sp + 1)).1 ++ (memRead s s.sp).1 } := rfl

/-- The return from an interrupt is that from a call, with interrupts enabled at once (R171). -/
theorem returnFromInterrupt_eq (s : State) :
    returnFromInterrupt s = { returnFromCall s with ime := true, eiPending := false } := rfl

theorem exec_ret (s : State) : exec .ret s = .next (returnFromCall s) := rfl

theorem exec_reti (s : State) : exec .reti s = .next (returnFromInterrupt s) := rfl

/-- The conditional return by its condition (R169). -/
theorem exec_retCond (cc : Cond) (s : State) :
    exec (.retCond cc) s = .next (if condHolds s.f cc then returnFromCall s else s) := rfl

/-- Settles O49: each return that is taken is a `returnFromCall`, which `returnFromCall_eq` writes out. -/
theorem returns : Obligations.Returns := by
  refine ⟨encodes_of_length_one rfl rfl, encodes_of_length_one rfl rfl, encodes_retCond,
    fun s => ⟨?ret, ?reti, fun cc => ⟨?taken, ?notTaken⟩⟩⟩
  case ret => rw [exec_ret, returnFromCall_eq]
  case reti => rw [exec_reti, returnFromInterrupt_eq, returnFromCall_eq]
  case taken =>
    intro hc
    rw [exec_retCond, if_pos hc, returnFromCall_eq]
  case notTaken =>
    intro hc
    simp [exec_retCond, hc]

end Sys2Proof.Block3Control
end

section
/-! PROOFS of the statements about Block 3, part 2 (44_block3_stack_ldh_sp_misc.md R181, R182, R190 to R194): the sums of SP
with a signed byte, `di` and `ei`, and `pop` and `push` of a register pair. -/
namespace Sys2Proof.Block3Misc
open Sys2Proof.Machine Sys2Proof.Block0

/-! ## SP and a signed byte, `ld sp, hl` (R190 to R192) -/

/-- The sum of R190 and R191 from the numbers: the displacement is signed in the result and unsigned in H and C. -/
theorem addSp_eq (sp : Word) (e : Byte) :
    addSp sp e = (BitVec.ofInt 16 (sp.toNat + e.toInt),
      ⟨false, false, decide (15 < sp.toNat % 16 + e.toNat % 16), decide (255 < sp.toNat % 256 + e.toNat)⟩) := by
  rw [ofInt_toNat_add_toInt]
  rfl

theorem exec_addSpImm8 (e : Byte) (s : State) :
    exec (.addSpImm8 e) s = .next { s with sp := (addSp s.sp e).1, f := (addSp s.sp e).2 } := rfl

theorem exec_ldHlSpImm8 (e : Byte) (s : State) :
    exec (.ldHlSpImm8 e) s = .next { s.setHL (addSp s.sp e).1 with f := (addSp s.sp e).2 } := rfl

theorem exec_ldSpHl (s : State) : exec .ldSpHl s = .next { s with sp := s.h ++ s.l } := rfl

/-- Settles O52: SP or HL, and F, take what `addSp_eq` says. -/
theorem stackPointerArithmetic : Obligations.StackPointerArithmetic := by
  refine ⟨fun e => ⟨encodes_of_length_two rfl rfl, encodes_of_length_two rfl rfl⟩, encodes_of_length_one rfl rfl,
    fun s => ⟨fun e => ⟨?addSp, ?ldHl⟩, exec_ldSpHl s⟩⟩
  case addSp => rw [exec_addSpImm8, addSp_eq]
  case ldHl =>
    rw [exec_ldHlSpImm8, addSp_eq]
    rfl

/-! ## `di` and `ei` (R193, R194) -/

theorem exec_di (s : State) : exec .di s = .next { s with ime := false, eiPending := false } := rfl

theorem exec_ei (s : State) : exec .ei s = .next { s with eiPending := true } := rfl

/-- Once `ei_pending` is 0 the EI delay sets nothing, whatever it was before the instruction (R224, R225). -/
theorem enableAfter_of_eiPending_false (before : Bool) {s : State} (h : s.eiPending = false) :
    enableAfter before s = s := by
  simp [enableAfter, h]

/-- `di` undoes an `ei` just before it: the EI delay does not set IME at its end (R225). -/
theorem executeOne_of_di {s : State} (h : (fetchInstr s).1 = .di) :
    executeOne s = .next { (fetchInstr s).2 with ime := false, eiPending := false } := by
  simp only [executeOne, h, exec_di, enableAfter_of_eiPending_false]

theorem fetchInstr_mode (s : State) : (fetchInstr s).2.mode = s.mode := by
  obtain ⟨p, q, fetched⟩ := fetchInstr_snd s
  rw [fetched]

theorem platformAct_ime (s : State) : (platformAct s).ime = s.ime := by
  rw [platformAct_eq]

/-- Interrupts disabled, the next step is the instruction's, whatever Platform requests in it (R222, R223). -/
theorem step_eq_executeOne_of_ime_false {s : State} (hmode : s.mode = .running) (hime : s.ime = false) :
    step s = executeOne (platformAct s) :=
  cpuStep_eq_executeOne ((platformAct_mode s).trans hmode) (.inl ((platformAct_ime s).trans hime))

/-- Settles O53: the step of `di` ends with IME = 0 (`executeOne_of_di`), and Platform, acting before the next step, does
not set it. -/
theorem diAndEi : Obligations.DiAndEi := by
  refine ⟨encodes_of_length_one rfl rfl, encodes_of_length_one rfl rfl, exec_di, exec_ei, fun s t => ?_⟩
  intro u hmode hdispatch hdi hstep
  have executed : step s = .next { (fetchInstr u).2 with ime := false, eiPending := false } :=
    (cpuStep_eq_executeOne hmode hdispatch).trans (executeOne_of_di hdi)
  cases hstep.symm.trans executed
  have running : (fetchInstr u).2.mode = .running := (fetchInstr_mode u).trans hmode
  exact ⟨rfl, rfl, running, step_eq_executeOne_of_ime_false running rfl⟩

/-! ## `pop` and `push` (R181, R182) -/

theorem encodes_popR16Stk (r : R16Stk) : Encodes [0b11#2 ++ r.bits ++ 0b0001#4] (.popR16Stk r) := by
  cases r <;> exact encodes_of_length_one rfl rfl

theorem encodes_pushR16Stk (r : R16Stk) : Encodes [0b11#2 ++ r.bits ++ 0b0101#4] (.pushR16Stk r) := by
  cases r <;> exact encodes_of_length_one rfl rfl

theorem exec_popR16Stk (r : R16Stk) (s : State) :
    exec (.popR16Stk r) s = .next (writeR16Stk (pop16 s).2 r (pop16 s).1) := rfl

theorem exec_pushR16Stk (r : R16Stk) (s : State) : exec (.pushR16Stk r) s = .next (push16 s (readR16Stk s r)) := rfl

/-- The low byte is read first; the high byte is read in the state that the first read leaves (R61). -/
theorem pop16_eq (s : State) :
    pop16 s = (word (memRead (memRead s s.sp).2 (s.sp + 1)).1 (memRead s s.sp).1,
      { (memRead (memRead s s.sp).2 (s.sp + 1)).2 with sp := s.sp + 2 }) := rfl

/-- The high byte is written first (R60). -/
theorem push16_word (s : State) (hi lo : Byte) :
    push16 s (word hi lo) = { memWrite (memWrite s (s.sp - 1) hi) (s.sp - 2) lo with sp := s.sp - 2 } := by
  rw [push16, hiByte_word, loByte_word]

/-- A pair takes the two bytes of a word, F without its low nibble (R12, R26). -/
theorem writeR16Stk_word (s : State) (hi lo : Byte) :
    writeR16Stk s .bc (word hi lo) = { s with b := hi, c := lo } ∧
    writeR16Stk s .de (word hi lo) = { s with d := hi, e := lo } ∧
    writeR16Stk s .hl (word hi lo) = { s with h := hi, l := lo } ∧
    writeR16Stk s .af (word hi lo) = { s with a := hi, f := Flags.ofByte lo } := by
  simp only [writeR16Stk, State.setBC, State.setDE, State.setHL, State.setAF, hiByte_word, loByte_word, and_self]

/-- Settles O50: the pair popped takes its two bytes by `writeR16Stk_word`, the pair pushed gives them by `push16_word`. -/
theorem popAndPushPairs : Obligations.PopAndPushPairs := by
  refine ⟨fun r => ⟨encodes_popR16Stk r, encodes_pushR16Stk r⟩, fun s => ?pop, fun s => ?push⟩
  case pop =>
    intro lo hi popped
    obtain ⟨bc, de, hl, af⟩ := writeR16Stk_word popped hi.1 lo.1
    simp only [exec_popR16Stk, pop16_eq]
    exact ⟨congrArg _ bc, congrArg _ de, congrArg _ hl, congrArg _ af⟩
  case push =>
    intro pushed
    simp only [exec_pushR16Stk]
    exact ⟨congrArg _ (push16_word s s.b s.c), congrArg _ (push16_word s s.d s.e), congrArg _ (push16_word s s.h s.l),
      congrArg _ (push16_word s s.a s.f.toByte)⟩

end Sys2Proof.Block3Misc
end

section
/-! PROOFS of the statements about the $CB page (45_cb_prefix.md R200 to R211): the encodings of its rows, each rotation
and shift and the bit masks in the terms of the statements, and what the instructions make of them. -/
namespace Sys2Proof.CbPage
open Sys2Proof.Machine Sys2Proof.Block0

/-! ## Encodings (R97) -/

/-- The byte 0xCB hands over to the $CB table, which decides on the operation byte alone (R81). -/
theorem encodes_of_decodeCB {op2 : Byte} {i : Instr} (h : decodeCB op2 = i) : Encodes [0xCB, op2] i :=
  encodes_of_length_two rfl h

/-- In block 0 of the $CB table bits 5 to 3 select a row `row` and bits 2 to 0 its operand. -/
theorem encodes_cbShift {k : BitVec 3} {row : R8 → Instr}
    (hrow : ∀ op2, bits76 op2 = 0 → bits53 op2 = k → decodeCB op2 = row (R8.ofBits (bits20 op2))) (o : R8) :
    Encodes [0xCB, 0b00#2 ++ k ++ o.bits] (row o) := by
  refine encodes_of_decodeCB ?_
  calc decodeCB (0b00#2 ++ k ++ o.bits) = row (R8.ofBits (bits20 (0b00#2 ++ k ++ o.bits))) :=
        hrow _ (bits76_append _ _ _) (bits53_append _ _ _)
    _ = row o := by rw [bits20_append, ofBits_bits_r8]

theorem encodes_rlcR8 (o : R8) : Encodes [0xCB, 0b00000#5 ++ o.bits] (.rlcR8 o) :=
  encodes_cbShift (k := 0) (fun op2 hx hk => by simp [decodeCB, hx, hk]) o

theorem encodes_rrcR8 (o : R8) : Encodes [0xCB, 0b00001#5 ++ o.bits] (.rrcR8 o) :=
  encodes_cbShift (k := 1) (fun op2 hx hk => by simp [decodeCB, hx, hk]) o

theorem encodes_rlR8 (o : R8) : Encodes [0xCB, 0b00010#5 ++ o.bits] (.rlR8 o) :=
  encodes_cbShift (k := 2) (fun op2 hx hk => by simp [decodeCB, hx, hk]) o

theorem encodes_rrR8 (o : R8) : Encodes [0xCB, 0b00011#5 ++ o.bits] (.rrR8 o) :=
  encodes_cbShift (k := 3) (fun op2 hx hk => by simp [decodeCB, hx, hk]) o

theorem encodes_slaR8 (o : R8) : Encodes [0xCB, 0b00100#5 ++ o.bits] (.slaR8 o) :=
  encodes_cbShift (k := 4) (fun op2 hx hk => by simp [decodeCB, hx, hk]) o

theorem encodes_sraR8 (o : R8) : Encodes [0xCB, 0b00101#5 ++ o.bits] (.sraR8 o) :=
  encodes_cbShift (k := 5) (fun op2 hx hk => by simp [decodeCB, hx, hk]) o

theorem encodes_swapR8 (o : R8) : Encodes [0xCB, 0b00110#5 ++ o.bits] (.swapR8 o) :=
  encodes_cbShift (k := 6) (fun op2 hx hk => by simp [decodeCB, hx, hk]) o

theorem encodes_srlR8 (o : R8) : Encodes [0xCB, 0b00111#5 ++ o.bits] (.srlR8 o) :=
  encodes_cbShift (k := 7) (fun op2 hx hk => by simp [decodeCB, hx, hk]) o

theorem encodes_bitB3R8 (b : BitVec 3) (o : R8) : Encodes [0xCB, 0b01#2 ++ b ++ o.bits] (.bitB3R8 b o) :=
  encodes_of_decodeCB (by simp [decodeCB])

theorem encodes_resB3R8 (b : BitVec 3) (o : R8) : Encodes [0xCB, 0b10#2 ++ b ++ o.bits] (.resB3R8 b o) :=
  encodes_of_decodeCB (by simp [decodeCB])

theorem encodes_setB3R8 (b : BitVec 3) (o : R8) : Encodes [0xCB, 0b11#2 ++ b ++ o.bits] (.setB3R8 b o) :=
  encodes_of_decodeCB (by simp [decodeCB])

/-! ## The shifts and `swap` as operations on the word (R205 to R208); the rotates are in `Block0` -/

/-- R205 as a shift of the word: bit 0 is filled with 0. -/
theorem shiftLeftArith_eq (v : Byte) : shiftLeftArith v = (v <<< 1, v.getLsbD 7) := by
  refine Prod.ext (BitVec.eq_of_getLsbD_eq fun i hi => ?_) rfl
  simp only [shiftLeftArith, BitVec.getLsbD_append, BitVec.getLsbD_shiftLeft, BitVec.getLsbD_extractLsb']
  by_cases h : i = 0
  · simp [h]
  · simp [show ¬ i < 1 by omega, hi, show i - 1 < 7 by omega]

/-- R206 as an arithmetic shift of the word: bit 7 is filled with itself. -/
theorem shiftRightArith_eq (v : Byte) : shiftRightArith v = (v.sshiftRight 1, v.getLsbD 0) := by
  refine Prod.ext (BitVec.eq_of_getLsbD_eq fun i hi => ?_) rfl
  simp only [shiftRightArith, BitVec.getLsbD_append, BitVec.getLsbD_sshiftRight, BitVec.getLsbD_extractLsb']
  by_cases h : i < 7
  · simp [h, show 1 + i < 8 by omega, hi]
  · simp [show i = 7 by omega, BitVec.msb_eq_getLsbD_last]

/-- R208 as a logical shift of the word: bit 7 is filled with 0. -/
theorem shiftRightLogic_eq (v : Byte) : shiftRightLogic v = (v >>> 1, v.getLsbD 0) := by
  refine Prod.ext (BitVec.eq_of_getLsbD_eq fun i hi => ?_) rfl
  simp only [shiftRightLogic, BitVec.getLsbD_append, BitVec.getLsbD_ushiftRight, BitVec.getLsbD_extractLsb']
  by_cases h : i < 7
  · simp [h]
  · simp [show i = 7 by omega]

/-- R207: swapping the two nibbles is a rotation by four. -/
theorem swapNibbles_eq (v : Byte) : swapNibbles v = (v.rotateLeft 4, false) := by
  refine Prod.ext (BitVec.eq_of_getLsbD_eq fun i hi => ?_) rfl
  simp only [swapNibbles, BitVec.getLsbD_append, BitVec.getLsbD_rotateLeft, BitVec.getLsbD_extractLsb']
  by_cases h : i < 4
  · simp [h]
  · simp [h, hi, show i - 4 < 4 by omega]

/-! ## The instructions that rotate, shift and swap (R200) -/

/-- The operand is read, its rotated or shifted value `r` is written back, and F says whether `r` is 0 and what was
shifted out (R200). -/
theorem modifyR8_shiftFlags_of_eq {shift : Byte → Byte × Bool} {s : State} {o : R8} {r : Byte} {carry : Bool}
    (h : shift (readR8 s o).1 = (r, carry)) :
    modifyR8 s o (fun v => shiftFlags (shift v)) =
      { writeR8 (readR8 s o).2 o r with f := ⟨decide (r = 0), false, false, carry⟩ } := by
  rw [modifyR8_eq, h, shiftFlags, beq_eq_decide]

theorem exec_rlcR8 (o : R8) (s : State) :
    exec (.rlcR8 o) s = .next (modifyR8 s o fun v => shiftFlags (rotateLeft v)) := rfl

theorem exec_rrcR8 (o : R8) (s : State) :
    exec (.rrcR8 o) s = .next (modifyR8 s o fun v => shiftFlags (rotateRight v)) := rfl

theorem exec_rlR8 (o : R8) (s : State) :
    exec (.rlR8 o) s = .next (modifyR8 s o fun v => shiftFlags (rotateLeftCarry s.f.c v)) := rfl

theorem exec_rrR8 (o : R8) (s : State) :
    exec (.rrR8 o) s = .next (modifyR8 s o fun v => shiftFlags (rotateRightCarry s.f.c v)) := rfl

theorem exec_slaR8 (o : R8) (s : State) :
    exec (.slaR8 o) s = .next (modifyR8 s o fun v => shiftFlags (shiftLeftArith v)) := rfl

theorem exec_sraR8 (o : R8) (s : State) :
    exec (.sraR8 o) s = .next (modifyR8 s o fun v => shiftFlags (shiftRightArith v)) := rfl

theorem exec_swapR8 (o : R8) (s : State) :
    exec (.swapR8 o) s = .next (modifyR8 s o fun v => shiftFlags (swapNibbles v)) := rfl

theorem exec_srlR8 (o : R8) (s : State) :
    exec (.srlR8 o) s = .next (modifyR8 s o fun v => shiftFlags (shiftRightLogic v)) := rfl

/-- Settles O54: the encodings by `encodes_cbShift`; each operation is one on the word, and the operand and F take what
`modifyR8_shiftFlags_of_eq` says. -/
theorem cbRotatesAndShifts : Obligations.CbRotatesAndShifts := by
  intro o s
  refine ⟨⟨encodes_rlcR8 o, encodes_rrcR8 o, encodes_rlR8 o, encodes_rrR8 o, encodes_slaR8 o, encodes_sraR8 o,
    encodes_swapR8 o, encodes_srlR8 o⟩, ?rlc, ?rrc, ?rl, ?rr, ?sla, ?sra, ?swap, ?srl⟩
  case rlc => rw [exec_rlcR8, modifyR8_shiftFlags_of_eq (rotateLeft_eq _)]
  case rrc => rw [exec_rrcR8, modifyR8_shiftFlags_of_eq (rotateRight_eq _)]
  case rl => rw [exec_rlR8, modifyR8_shiftFlags_of_eq (rotateLeftCarry_eq _ _)]
  case rr => rw [exec_rrR8, modifyR8_shiftFlags_of_eq (rotateRightCarry_eq _ _)]
  case sla => rw [exec_slaR8, modifyR8_shiftFlags_of_eq (shiftLeftArith_eq _)]
  case sra => rw [exec_sraR8, modifyR8_shiftFlags_of_eq (shiftRightArith_eq _)]
  case swap => rw [exec_swapR8, modifyR8_shiftFlags_of_eq (swapNibbles_eq _)]
  case srl => rw [exec_srlR8, modifyR8_shiftFlags_of_eq (shiftRightLogic_eq _)]

/-! ## `bit`, `res`, `set` (R209 to R211) -/

/-- The mask of R210 and R211 has the one bit `b`. -/
theorem getLsbD_bitMask (b : BitVec 3) (k : Nat) : (bitMask b).getLsbD k = decide (k = b.toNat) := by
  have hb : b.toNat < 8 := b.isLt
  rw [bitMask, BitVec.getLsbD_ofNat, Nat.testBit_two_pow, ← Bool.decide_and]
  exact decide_eq_decide.mpr (by omega)

/-- `res` clears the bit `b` and keeps the others (R210). -/
theorem getLsbD_and_not_bitMask (v : Byte) (b : BitVec 3) (k : Nat) :
    (v &&& ~~~bitMask b).getLsbD k = (v.getLsbD k && decide (k ≠ b.toNat)) := by
  rw [BitVec.getLsbD_and, BitVec.getLsbD_not, getLsbD_bitMask, decide_not]
  by_cases hk : k < 8
  · simp [hk]
  · simp [BitVec.getLsbD_of_ge v k (by omega)]

/-- `set` sets the bit `b` and keeps the others (R211). -/
theorem getLsbD_or_bitMask (v : Byte) (b : BitVec 3) (k : Nat) :
    (v ||| bitMask b).getLsbD k = (v.getLsbD k || decide (k = b.toNat)) := by
  rw [BitVec.getLsbD_or, getLsbD_bitMask]

theorem exec_bitB3R8 (b : BitVec 3) (o : R8) (s : State) :
    exec (.bitB3R8 b o) s =
      .next { (readR8 s o).2 with f := ⟨!(readR8 s o).1.getLsbD b.toNat, false, true, s.f.c⟩ } := rfl

theorem exec_resB3R8 (b : BitVec 3) (o : R8) (s : State) :
    exec (.resB3R8 b o) s = .next (writeR8 (readR8 s o).2 o ((readR8 s o).1 &&& ~~~bitMask b)) := rfl

theorem exec_setB3R8 (b : BitVec 3) (o : R8) (s : State) :
    exec (.setB3R8 b o) s = .next (writeR8 (readR8 s o).2 o ((readR8 s o).1 ||| bitMask b)) := rfl

/-- Settles O55: `bit` is read off; what `res` and `set` write back is given bit by bit by `getLsbD_and_not_bitMask` and
`getLsbD_or_bitMask`. -/
theorem bitResSet : Obligations.BitResSet := fun b o s =>
  ⟨⟨encodes_bitB3R8 b o, encodes_resB3R8 b o, encodes_setB3R8 b o⟩,
    exec_bitB3R8 b o s,
    ⟨_, exec_resB3R8 b o s, getLsbD_and_not_bitMask _ b⟩,
    ⟨_, exec_setB3R8 b o s, getLsbD_or_bitMask _ b⟩⟩

end Sys2Proof.CbPage
end

section
/-! PROOFS of the statements about interrupt dispatch and about leaving `Halted` (60_exceptions.md R226 to R232, R236), with
the facts about pending requests and the step that they rest on. -/
namespace Sys2Proof.Exceptions
open Sys2Proof.Machine Sys2Proof.Block0 Sys2Proof.Block1

/-! ## Pending requests (R226 to R230, R232) -/

/-- Bit `n` of `pending`: interrupt `n` is both enabled and requested (R228). -/
theorem getLsbD_pending (s : State) (n : Nat) : s.pending.getLsbD n = (s.ie.getLsbD n && s.iflag.getLsbD n) := by
  rw [State.pending, BitVec.getLsbD_and, BitVec.getLsbD_extractLsb', Nat.zero_add]
  by_cases hn : n < 5
  · rw [decide_eq_true hn, Bool.true_and]
  · rw [BitVec.getLsbD_of_ge s.iflag n (Nat.le_of_not_lt hn), Bool.and_false, Bool.and_false]

theorem leastSetBit_lt (p : BitVec 5) : leastSetBit p < 5 := by
  unfold leastSetBit
  split_ifs <;> decide

/-- When no bit below 4 is set, a word that is not 0 has bit 4 set. -/
theorem getLsbD_leastSetBit {p : BitVec 5} (h : p ≠ 0) : p.getLsbD (leastSetBit p) = true := by
  unfold leastSetBit
  split_ifs with h0 h1 h2 h3
  · exact h0
  · exact h1
  · exact h2
  · exact h3
  · by_contra h4
    refine h (BitVec.eq_of_getLsbD_eq fun i hi => ?_)
    interval_cases i <;> simp_all

theorem getLsbD_eq_false_of_lt_leastSetBit {p : BitVec 5} {k : Nat} (h : k < leastSetBit p) : p.getLsbD k = false := by
  unfold leastSetBit at h
  split_ifs at h <;> interval_cases k <;> simp_all

/-- Clearing a request is masking with the complement of its bit (R232). -/
theorem clearRequest_eq (iflag : BitVec 5) (n : Nat) : clearRequest iflag n = iflag &&& ~~~(1#5 <<< n) := by
  have bit : BitVec.ofNat 5 (2 ^ n) = 1#5 <<< n := BitVec.eq_of_toNat_eq (BitVec.toNat_twoPow 5 n).symm
  rw [clearRequest, bit]

/-! ## Dispatch (R232) -/

/-- R232: one of the two bytes of a push would land on IE or on IF. -/
def PushOverlaps (s : State) : Prop :=
  s.sp - 1 = s.params.ieAddr ∨ s.sp - 1 = s.params.ifAddr ∨ s.sp - 2 = s.params.ieAddr ∨ s.sp - 2 = s.params.ifAddr

theorem dispatchInterrupt_of_overlap {s : State} (h : PushOverlaps s) :
    dispatchInterrupt s = .refused .dispatchPushHitsInterruptRegister := by
  rcases dispatchInterrupt_spec s with ⟨_, refused⟩ | ⟨⟨h1, h2, h3, h4⟩, _⟩
  · exact refused
  · exact absurd h (not_or.mpr ⟨h1, not_or.mpr ⟨h2, not_or.mpr ⟨h3, h4⟩⟩⟩)

theorem dispatchInterrupt_of_not_overlap {s : State} (h : ¬ PushOverlaps s) :
    dispatchInterrupt s = .next
      { push16 { s with
          ime := false, eiPending := false, iflag := s.iflag &&& ~~~(1#5 <<< leastSetBit s.pending) } s.pc with
        pc := vector (leastSetBit s.pending) } := by
  rcases dispatchInterrupt_spec s with ⟨overlap, _⟩ | ⟨_, next⟩
  · exact absurd overlap h
  · rw [next, clearRequest_eq]

/-! ## Steps of a running or halted core (R222, R236) -/

theorem cpuStep_of_halted_idle {s : State} (hm : s.mode = .halted) (hp : s.pending = 0) : cpuStep s = .next s := by
  simp [cpuStep, hm, hasPending_of_pending_eq_zero hp]

/-- A request wakes a halted core, and the same step goes on as that of a running one (R236). -/
theorem cpuStep_wake {s : State} (hm : s.mode = .running ∨ s.mode = .halted) (hp : s.pending ≠ 0) :
    cpuStep s = cpuStep { s with mode := .running } := by
  rcases hm with running | halted
  · rw [← running]
  · simp [cpuStep, halted, hasPending_of_pending_ne_zero hp]

/-- The interrupt wins over the instruction (R230), in a halted core as in a running one. -/
theorem cpuStep_eq_dispatchInterrupt {s : State} (hm : s.mode = .running ∨ s.mode = .halted) (hi : s.ime = true)
    (hp : s.pending ≠ 0) : cpuStep s = dispatchInterrupt { s with mode := .running } := by
  have request : s.hasPending = true := hasPending_of_pending_ne_zero hp
  rw [cpuStep_wake hm hp]
  exact if_pos (show (s.ime && s.hasPending) = true by rw [hi, request]; rfl)

/-- Settles O10: the step is the dispatch (`cpuStep_eq_dispatchInterrupt`), whose two cases are those of the statement, and
the interrupt dispatched is the least bit set in `pending`. -/
theorem dispatchEffect : Obligations.DispatchEffect := by
  intro s u overlap hm hi hp
  have dispatches : step s = dispatchInterrupt { u with mode := .running } := cpuStep_eq_dispatchInterrupt hm hi hp
  refine ⟨fun h => dispatches.trans (dispatchInterrupt_of_overlap h), fun h => ⟨leastSetBit u.pending, ?_, ?_, ?_, ?_⟩⟩
  · exact leastSetBit_lt _
  · rw [← getLsbD_pending]
    exact getLsbD_leastSetBit hp
  · intro k hk
    rw [← getLsbD_pending]
    exact getLsbD_eq_false_of_lt_leastSetBit hk
  · exact dispatches.trans (dispatchInterrupt_of_not_overlap h)

/-- Settles O13: a halted core is idle (`cpuStep_of_halted_idle`), or it wakes (`cpuStep_wake`) and dispatches or executes as a
running one does. -/
theorem haltedWakes : Obligations.HaltedWakes := by
  intro s u hm
  refine ⟨fun idle => cpuStep_of_halted_idle hm idle, fun hp hi => cpuStep_eq_dispatchInterrupt (.inr hm) hi hp,
    fun hp hi => ?_⟩
  calc step s = cpuStep { u with mode := .running } := cpuStep_wake (.inr hm) hp
    _ = executeOne { u with mode := .running } := cpuStep_eq_executeOne rfl (.inl hi)

end Sys2Proof.Exceptions
end

section
/-! PROOFS of the statements about decoding and encoding as a whole (30_encoding.md R80 to R98, R183): the decoder and the
encoder undo each other, and the length of an instruction is that of its first byte. -/
namespace Sys2Proof.RoundTrip
open Sys2Proof.Machine Sys2Proof.Encoding Sys2Proof.Block0

/-! ## Encoding and then decoding (R80, R92 to R97) -/

/-- A three-byte instruction whose word operand the encoder takes apart, low byte first (R83). -/
theorem encodes_word {op : Byte} {row : Word → Instr} (h : ∀ lo hi : Byte, Encodes [op, lo, hi] (row (word hi lo)))
    (v : Word) : Encodes [op, loByte v, hiByte v] (row v) := by
  simpa only [word_hiByte_loByte] using h (loByte v) (hiByte v)

/-- The encoder writes a byte string that the decoder reads as the instruction: row by row of the opcode tables. -/
theorem encodes_encode {i : Instr} (h : i.wellFormed = true) : Encodes (encode i) i := by
  cases i with
  | prefixCB op2 => exact nomatch h
  | ldR8R8 dst src =>
    refine encodes_ldR8R8 fun e => ?_
    obtain ⟨rfl, rfl⟩ := e
    exact nomatch h
  | ldR16Imm16 r imm => exact encodes_word (encodes_ldR16Imm16 r) imm
  | ldR16MemA m => exact encodes_ldR16MemA m
  | ldAR16Mem m => exact encodes_ldAR16Mem m
  | incR16 r => exact encodes_incR16 r
  | decR16 r => exact encodes_decR16 r
  | addHlR16 r => exact encodes_addHlR16 r
  | incR8 o => exact encodes_incR8 o
  | decR8 o => exact encodes_decR8 o
  | ldR8Imm8 o imm => exact encodes_ldR8Imm8 o imm
  | jrCondImm8 cc e => exact encodes_jrCondImm8 cc e
  | addAR8 o => exact Block2.encodes_addAR8 o
  | adcAR8 o => exact Block2.encodes_adcAR8 o
  | subAR8 o => exact Block2.encodes_subAR8 o
  | sbcAR8 o => exact Block2.encodes_sbcAR8 o
  | andAR8 o => exact Block2.encodes_andAR8 o
  | xorAR8 o => exact Block2.encodes_xorAR8 o
  | orAR8 o => exact Block2.encodes_orAR8 o
  | cpAR8 o => exact Block2.encodes_cpAR8 o
  | retCond cc => exact Block3Control.encodes_retCond cc
  | jpCondImm16 cc addr => exact encodes_word (Block3Control.encodes_jpCondImm16 cc) addr
  | callCondImm16 cc addr => exact encodes_word (Block3Control.encodes_callCondImm16 cc) addr
  | rstTgt3 tgt => exact Block3Control.encodes_rstTgt3 tgt
  | popR16Stk r => exact Block3Misc.encodes_popR16Stk r
  | pushR16Stk r => exact Block3Misc.encodes_pushR16Stk r
  | rlcR8 o => exact CbPage.encodes_rlcR8 o
  | rrcR8 o => exact CbPage.encodes_rrcR8 o
  | rlR8 o => exact CbPage.encodes_rlR8 o
  | rrR8 o => exact CbPage.encodes_rrR8 o
  | slaR8 o => exact CbPage.encodes_slaR8 o
  | sraR8 o => exact CbPage.encodes_sraR8 o
  | swapR8 o => exact CbPage.encodes_swapR8 o
  | srlR8 o => exact CbPage.encodes_srlR8 o
  | bitB3R8 b o => exact CbPage.encodes_bitB3R8 b o
  | resB3R8 b o => exact CbPage.encodes_resB3R8 b o
  | setB3R8 b o => exact CbPage.encodes_setB3R8 b o
  | ldImm16Sp addr | jpImm16 addr | callImm16 addr | ldImm16A addr | ldAImm16 addr =>
    exact encodes_word (fun _ _ => encodes_of_length_three rfl rfl) addr
  | jrImm8 v | stop v | addAImm8 v | adcAImm8 v | subAImm8 v | sbcAImm8 v | andAImm8 v | xorAImm8 v | orAImm8 v
  | cpAImm8 v | ldhImm8A v | ldhAImm8 v | addSpImm8 v | ldHlSpImm8 v =>
    exact encodes_of_length_two rfl rfl
  | nop | rlca | rrca | rla | rra | daa | cpl | scf | ccf | halt | ret | reti | jpHl | ldhCA | ldhAC | ldSpHl | di | ei
  | invalidD3 | invalidDB | invalidDD | invalidE3 | invalidE4 | invalidEB | invalidEC | invalidED | invalidF4 | invalidFC
  | invalidFD =>
    exact encodes_of_length_one rfl rfl

/-- Settles O1: `encodes_encode`. -/
theorem decodeEncodeRoundTrip : Obligations.DecodeEncodeRoundTrip := fun _ h => encodes_encode h

/-! ## Decoding and then encoding (R81, R98, R100, R101) -/

/-- The one-byte instructions, opcode by opcode. -/
theorem encode_decode_of_length_one : ∀ op : Byte, opcodeLength op = 1 →
    (decode op 0 0).wellFormed = true ∧ encode (decode op 0 0) = [op] := by decide

/-- The $CB table, operation byte by operation byte (R97). -/
theorem encode_decodeCB : ∀ op2 : Byte, (decodeCB op2).wellFormed = true ∧ encode (decodeCB op2) = [0xCB, op2] := by
  decide

theorem encode_decode_of_length_two {op : Byte} (hm : op ∈ twoByteOpcodes) (b1 : Byte) :
    (decode op b1 0).wellFormed = true ∧ encode (decode op b1 0) = [op, b1] := by
  by_cases hcb : op = 0xCB
  · subst hcb
    exact encode_decodeCB b1
  · unfold twoByteOpcodes at hm
    fin_cases hm
    · contradiction
    all_goals exact ⟨rfl, rfl⟩

/-- Each has the word of its two operand bytes as its operand, which the encoder takes apart again. -/
theorem encode_decode_of_length_three {op : Byte} (hm : op ∈ threeByteOpcodes) (b1 b2 : Byte) :
    (decode op b1 b2).wellFormed = true ∧ encode (decode op b1 b2) = [op, b1, b2] := by
  have operand (f : Byte) : [f, loByte (word b2 b1), hiByte (word b2 b1)] = [f, b1, b2] := by
    rw [loByte_word, hiByte_word]
  unfold threeByteOpcodes at hm
  fin_cases hm <;> exact ⟨rfl, operand _⟩

/-- Settles O2: the operand bytes beyond the length do not matter, and for each length the bytes are encoded again. -/
theorem encodeDecodeRoundTrip : Obligations.EncodeDecodeRoundTrip := by
  intro op b1 b2
  rcases opcodeLength_spec op with ⟨hm, hl⟩ | ⟨hm, hl⟩ | hl
  · rw [hl]
    exact encode_decode_of_length_three hm b1 b2
  · rw [hl, decode_of_length_two hl]
    exact encode_decode_of_length_two hm b1
  · rw [hl, decode_of_length_one hl]
    exact encode_decode_of_length_one op hl

/-! ## The length (R98) and the words of the sources -/

/-- The decoder takes as many bytes as the length of the first one says. -/
theorem decodeBytes_eq_drop (op b1 b2 : Byte) (rest : List Byte) :
    decodeBytes (op :: b1 :: b2 :: rest) =
      .ok (decode op b1 b2, (op :: b1 :: b2 :: rest).drop (opcodeLength op)) := by
  rcases opcodeLength_spec op with ⟨_, hl⟩ | ⟨_, hl⟩ | hl
  · simp [decodeBytes, hl]
  · simp [decodeBytes, hl, decode_of_length_two hl b1 b2]
  · simp [decodeBytes, hl, decode_of_length_one hl b1 b2]

/-- Settles O4: the statement's table of lengths is that of the decoder, opcode by opcode. -/
theorem lengthByFirstByte : Obligations.LengthByFirstByte := by
  intro op b1 b2 rest
  refine ⟨decode op b1 b2, (decodeBytes_eq_drop op b1 b2 rest).trans ?_⟩
  congr 3
  revert op
  decide

/-- Settles O3: each word is decoded as its row of the encoding tables says. -/
theorem sampleWords : Obligations.SampleWords :=
  ⟨encodes_ldR8Imm8 .b 0x42 [], Block2.encodes_addAR8 .b [], CbPage.encodes_swapR8 .b [], CbPage.encodes_swapR8 .a [],
    CbPage.encodes_bitB3R8 0 .b [], CbPage.encodes_setB3R8 1 .e [], encodes_jrCondImm8 .z 0x05 [],
    encodes_encode (i := .callImm16 0x0200) rfl [], encodes_encode (i := .halt) rfl [],
    encodes_encode (i := .stop 0x00) rfl [], Block3Control.encodes_rstTgt3 3 [], encodes_encode (i := .di) rfl []⟩

/-! ## The byte 0xCB (R183) -/

/-- The meaning of the table's row of the byte 0xCB is that of the instruction its operation byte selects: the two tables
agree in each block (bits 7 and 6) and, in block 0, in each row (bits 5 to 3). -/
theorem exec_prefixCB (op2 : Byte) (s : State) : exec (.prefixCB op2) s = exec (decodeCB op2) s := by
  change execPrefixCB op2 s = _
  unfold execPrefixCB decodeCB
  generalize (bits76 op2).toNat = block
  generalize (bits53 op2).toNat = row
  match block with
  | 0 =>
    match row with
    | 0 | 1 | 2 | 3 | 4 | 5 | 6 | _ + 7 => rfl
  | 1 | 2 | _ + 3 => rfl

end Sys2Proof.RoundTrip
end

section
/-! PROOFS of the statements about what every instruction leaves unchanged (10_state.md R22 to R40, 20_memory.md R51 to R62).
Each of the four frames (control state, bus, registers, flags) is one lemma over the constructors of `Instr`. -/
namespace Sys2Proof.Frames
open Sys2Proof.Machine Sys2Proof.Encoding Sys2Proof.RoundTrip

/-! ## The row of the byte 0xCB in the tables of what an instruction may change -/

theorem decodeCB_ne_prefixCB (op2 op2' : Byte) : decodeCB op2 ≠ .prefixCB op2' := fun e => by
  have wf := (encode_decodeCB op2).1
  rw [e] at wf
  exact nomatch wf

/-- A property of every instruction is one of every row but that of the byte 0xCB, which means a row of the $CB table (R183). -/
theorem forall_instr {P : Instr → Prop} (row : ∀ i, (∀ op2, i ≠ .prefixCB op2) → P i)
    (cbRow : ∀ op2, P (decodeCB op2) → P (.prefixCB op2)) (i : Instr) : P i := by
  by_cases h : ∃ op2, i = .prefixCB op2
  · obtain ⟨op2, rfl⟩ := h
    exact cbRow op2 (row _ (decodeCB_ne_prefixCB op2))
  · exact row i fun op2 e => h ⟨op2, e⟩

theorem dests_prefixCB : ∀ op2 : Byte, dests (.prefixCB op2) = dests (decodeCB op2) := by decide

theorem flagRow_prefixCB : ∀ op2 : Byte, flagRow (.prefixCB op2) = flagRow (decodeCB op2) := by decide

theorem loads_prefixCB (s : State) (op2 : Byte) : loads s (.prefixCB op2) = loads s (decodeCB op2) := by
  unfold decodeCB
  dsimp only
  split
  case h_1 => split <;> rfl
  all_goals rfl

/-- Of the $CB table `bit` alone stores nothing. -/
theorem stores_prefixCB (s : State) (op2 : Byte) : stores s (.prefixCB op2) = stores s (decodeCB op2) := by
  have isBit : cbIsBit op2 = decide ((bits76 op2).toNat = 1) := by
    rw [cbIsBit, beq_eq_decide]
    exact decide_eq_decide.mpr BitVec.toNat_inj.symm
  unfold decodeCB
  dsimp only
  split
  case h_1 hx => split <;> simp [stores, isBit, hx, cbOperand]
  case h_2 hx => simp [stores, isBit, hx]
  case h_3 hx => simp [stores, isBit, hx, cbOperand]
  case h_4 _ hx _ => simp [stores, isBit.trans (decide_eq_false hx), cbOperand]

/-! ## Control state (R30, R33, R38, R39, R40) -/

/-- Whether an instruction can write IME, `ei_pending`, `halt_bug` or the mode. -/
def writesControl : Instr → Bool
  | .di | .ei | .reti | .halt | .stop _ => true
  | i => isInvalid i

/-- IME, `ei_pending`, `halt_bug` and the mode are as they were. -/
structure SameControl (s t : State) : Prop where
  ime : t.ime = s.ime
  eiPending : t.eiPending = s.eiPending
  haltBug : t.haltBug = s.haltBug
  mode : t.mode = s.mode

theorem SameControl.refl (s : State) : SameControl s s := ⟨rfl, rfl, rfl, rfl⟩

/-- For a conditional transfer: it is the taken one, or nothing. -/
theorem SameControl.ite {s t : State} (h : SameControl s t) (c : Bool) : SameControl s (if c then t else s) := by
  cases c
  · exact .refl s
  · exact h

theorem writesControl_decodeCB : ∀ op2 : Byte, writesControl (decodeCB op2) = false := by decide

theorem isControlTransfer_decodeCB : ∀ op2 : Byte, isControlTransfer (decodeCB op2) = false := by decide

/-- Every instruction that `writesControl` does not list keeps the control state, and, if it is no transfer, PC. -/
theorem exec_sameControl (i : Instr) {s t : State} (hi : writesControl i = false) (h : exec i s = .next t) :
    SameControl s t ∧ (isControlTransfer i = false → t.pc = s.pc) := by
  induction i using forall_instr with
  | cbRow op2 ih =>
    obtain ⟨same, pc⟩ := ih (writesControl_decodeCB op2) (exec_prefixCB op2 s ▸ h)
    exact ⟨same, fun _ => pc (isControlTransfer_decodeCB op2)⟩
  | row i hrow =>
    cases i with
    | prefixCB op2 => exact absurd rfl (hrow op2)
    | di | ei | reti | halt | stop pad | invalidD3 | invalidDB | invalidDD | invalidE3 | invalidE4 | invalidEB | invalidEC
    | invalidED | invalidF4 | invalidFC | invalidFD => exact nomatch hi
    | jrCondImm8 cc e | jpCondImm16 cc addr =>
      obtain rfl := Host.Outcome.next.inj h
      refine ⟨.ite ?_ _, nofun⟩
      exact ⟨rfl, rfl, rfl, rfl⟩
    | retCond cc | callCondImm16 cc addr =>
      obtain rfl := Host.Outcome.next.inj h
      exact ⟨.ite (by constructor <;> simp) _, nofun⟩
    | jrImm8 e | jpImm16 addr | jpHl | ret | callImm16 addr | rstTgt3 tgt =>
      obtain rfl := Host.Outcome.next.inj h
      exact ⟨by constructor <;> simp, nofun⟩
    | nop | ldR16Imm16 r imm | ldR16MemA m | ldAR16Mem m | ldImm16Sp addr | incR16 r | decR16 r | addHlR16 r | incR8 o
    | decR8 o | ldR8Imm8 o imm | rlca | rrca | rla | rra | daa | cpl | scf | ccf | ldR8R8 dst src | addAR8 o | adcAR8 o
    | subAR8 o | sbcAR8 o | andAR8 o | xorAR8 o | orAR8 o | cpAR8 o | addAImm8 v | adcAImm8 v | subAImm8 v | sbcAImm8 v
    | andAImm8 v | xorAImm8 v | orAImm8 v | cpAImm8 v | popR16Stk r | pushR16Stk r | ldhCA | ldhImm8A off | ldImm16A addr
    | ldhAC | ldhAImm8 off | ldAImm16 addr | addSpImm8 e | ldHlSpImm8 e | ldSpHl | rlcR8 o | rrcR8 o | rlR8 o | rrR8 o
    | slaR8 o | sraR8 o | swapR8 o | srlR8 o | bitB3R8 b o | resB3R8 b o | setB3R8 b o =>
      obtain rfl := Host.Outcome.next.inj h
      exact ⟨by constructor <;> simp, fun _ => by simp⟩

theorem decodeCB_ne_of_writesControl (op2 : Byte) {i : Instr} (hi : writesControl i = true) : decodeCB op2 ≠ i := by
  rintro rfl
  exact nomatch (writesControl_decodeCB op2).symm.trans hi

/-- Only `halt` and `stop` have cases without a meaning. -/
theorem exec_answers (i : Instr) (hhalt : i ≠ .halt) (hstop : ∀ pad, i ≠ .stop pad) (s : State) :
    ∃ t, exec i s = .next t := by
  induction i using forall_instr with
  | cbRow op2 ih =>
    rw [exec_prefixCB]
    exact ih (decodeCB_ne_of_writesControl op2 rfl) fun _ => decodeCB_ne_of_writesControl op2 rfl
  | row i hrow =>
    cases i with
    | prefixCB op2 => exact absurd rfl (hrow op2)
    | halt => contradiction
    | stop pad => exact absurd rfl (hstop pad)
    | _ => exact ⟨_, rfl⟩

/-- Settles O6: the decoding by `encode_decodeCB`, the meaning by `exec_prefixCB` and `exec_answers`. -/
theorem prefixRunsCbTable : Obligations.PrefixRunsCbTable := fun op2 s =>
  ⟨CbPage.encodes_of_decodeCB rfl, exec_answers (.prefixCB op2) nofun nofun s, exec_prefixCB op2 s⟩

/-- What `halt` can do (R142). -/
theorem execHalt_spec (s : State) :
    (s.eiPending = true ∧ s.hasPending = true ∧ execHalt s = .refused .haltAfterEiWithRequest) ∨
    (s.eiPending = false ∧ s.ime = false ∧ s.hasPending = true ∧ execHalt s = .next { s with haltBug := true }) ∨
    execHalt s = .next { s with mode := .halted } := by
  rcases Bool.eq_false_or_eq_true s.hasPending with hp | hp
  · rcases Bool.eq_false_or_eq_true s.eiPending with hei | hei
    · exact .inl ⟨hei, hp, Block1.execHalt_refused hei hp⟩
    · rcases Bool.eq_false_or_eq_true s.ime with hime | hime
      · exact .inr (.inr (Block1.execHalt_halted_of_ime hei hime))
      · exact .inr (.inl ⟨hei, hime, hp, Block1.execHalt_haltBug hei hime hp⟩)
  · exact .inr (.inr (Block1.execHalt_halted_of_not_hasPending hp))

/-- Everything an instruction can do to the control state. -/
inductive ControlEffect (s : State) : Instr → State → Prop where
  | kept {i : Instr} {t : State} (hi : writesControl i = false) (same : SameControl s t)
      (pc : isControlTransfer i = false → t.pc = s.pc) : ControlEffect s i t
  | di : ControlEffect s .di { s with ime := false, eiPending := false }
  | ei : ControlEffect s .ei { s with eiPending := true }
  | reti : ControlEffect s .reti (returnFromInterrupt s)
  | haltBug (hei : s.eiPending = false) (hime : s.ime = false) (hp : s.hasPending = true) :
      ControlEffect s .halt { s with haltBug := true }
  | halted : ControlEffect s .halt { s with mode := .halted }
  | stopped (none : s.stopAccount 0x00 = none) : ControlEffect s (.stop 0x00) { s with mode := .stopped }
  | account {pad : Byte} {e : StopEffect} (he : s.stopAccount pad = some e) : ControlEffect s (.stop pad) (applyStop s e)
  | locked {i : Instr} (hi : isInvalid i = true) : ControlEffect s i (hardLock s)

theorem exec_stop_effect {pad : Byte} {s t : State} (h : exec (.stop pad) s = .next t) : ControlEffect s (.stop pad) t := by
  have h : execStop pad s = .next t := h
  rcases execStop_spec pad s with ⟨e, he, out⟩ | ⟨_, _, out⟩ | ⟨_, _, _, out⟩ | ⟨hn, rfl, _, _, out⟩
  · obtain rfl := Host.Outcome.next.inj (out.symm.trans h)
    exact .account he
  · exact nomatch out.symm.trans h
  · exact nomatch out.symm.trans h
  · obtain rfl := Host.Outcome.next.inj (out.symm.trans h)
    exact .stopped hn

theorem exec_halt_effect {s t : State} (h : exec .halt s = .next t) : ControlEffect s .halt t := by
  have h : execHalt s = .next t := h
  rcases execHalt_spec s with ⟨_, _, out⟩ | ⟨hei, hime, hp, out⟩ | out
  · exact nomatch out.symm.trans h
  · obtain rfl := Host.Outcome.next.inj (out.symm.trans h)
    exact .haltBug hei hime hp
  · obtain rfl := Host.Outcome.next.inj (out.symm.trans h)
    exact .halted

/-- Beside the control state neither `halt` nor `stop` changes anything. -/
theorem exec_halt_frame {s t : State} (h : exec .halt s = .next t) :
    ∃ haltBug mode, t = { s with haltBug := haltBug, mode := mode } := by
  cases exec_halt_effect h with
  | kept hi => exact nomatch hi
  | locked hi => exact nomatch hi
  | haltBug | halted => exact ⟨_, _, rfl⟩

theorem exec_stop_frame {pad : Byte} {s t : State} (h : exec (.stop pad) s = .next t) :
    ∃ mode pc, t = { s with mode := mode, pc := pc } := by
  cases exec_stop_effect h with
  | kept hi => exact nomatch hi
  | locked hi => exact nomatch hi
  | stopped | account => exact ⟨_, _, rfl⟩

/-- Every instruction that answers a next state has one of these effects. -/
theorem exec_controlEffect {i : Instr} {s t : State} (h : exec i s = .next t) : ControlEffect s i t := by
  by_cases hw : writesControl i = false
  · obtain ⟨same, pc⟩ := exec_sameControl i hw h
    exact .kept hw same pc
  · by_cases hinv : isInvalid i = true
    · obtain rfl := Host.Outcome.next.inj ((exec_of_isInvalid hinv s).symm.trans h)
      exact .locked hinv
    · cases i with
      | di =>
        obtain rfl := Host.Outcome.next.inj h
        exact .di
      | ei =>
        obtain rfl := Host.Outcome.next.inj h
        exact .ei
      | reti =>
        obtain rfl := Host.Outcome.next.inj h
        exact .reti
      | halt => exact exec_halt_effect h
      | stop pad => exact exec_stop_effect h
      | _ => exact absurd (Bool.eq_false_iff.mpr hinv) hw

/-! ## The bus (R51 to R54) -/

/-- What an access can change is as it was: the interrupt registers, memory, Platform; and the parameters. -/
structure SameBus (s t : State) : Prop where
  ie : t.ie = s.ie
  iflag : t.iflag = s.iflag
  ifUpper : t.ifUpper = s.ifUpper
  mem : t.mem = s.mem
  plat : t.plat = s.plat
  params : t.params = s.params

/-- `t` comes from `s` by reads at addresses in `rd`, writes at addresses in `wr`, and a last change that is none of the
bus's. -/
inductive Accesses (rd wr : List Word) : State → State → Prop where
  | done {s t : State} (same : SameBus s t) : Accesses rd wr s t
  | read {s t : State} (addr : Word) (h : addr ∈ rd) (rest : Accesses rd wr (memRead s addr).2 t) : Accesses rd wr s t
  | write {s t : State} (addr : Word) (v : Byte) (h : addr ∈ wr) (rest : Accesses rd wr (memWrite s addr v) t) :
      Accesses rd wr s t

section
variable {rd wr : List Word} {s t : State}

/-- A change of registers and flags alone. -/
theorem Accesses.refl : Accesses rd wr s s := .done ⟨rfl, rfl, rfl, rfl, rfl, rfl⟩

/-- For a conditional transfer. -/
theorem Accesses.ite (c : Bool) (h : c = true → Accesses rd wr s t) : Accesses rd wr s (if c then t else s) := by
  cases c
  · exact .refl
  · exact h rfl

theorem Accesses.readR8 (o : R8) (h : r8Addrs s o ⊆ rd) (rest : Accesses rd wr (readR8 s o).2 t) :
    Accesses rd wr s t := by
  cases o with
  | hlInd => exact .read s.hl (h List.mem_cons_self) rest
  | _ => exact rest

theorem Accesses.writeR8 (o : R8) (v : Byte) (h : r8Addrs s o ⊆ wr) (same : SameBus (writeR8 s o v) t) :
    Accesses rd wr s t := by
  cases o with
  | hlInd => exact .write s.hl v (h List.mem_cons_self) (.done same)
  | _ => exact .done ⟨same.ie, same.iflag, same.ifUpper, same.mem, same.plat, same.params⟩

/-- Reading an `r8` operand does not change the address of another. -/
theorem r8Addrs_readR8 (s : State) (o q : R8) : r8Addrs (readR8 s o).2 q = r8Addrs s q := by
  cases o <;> cases q <;> rfl

theorem Accesses.modifyR8 (o : R8) (change : Byte → Byte × Flags) :
    Accesses (r8Addrs s o) (r8Addrs s o) s (modifyR8 s o change) :=
  .readR8 o (List.Subset.refl _) (.writeR8 o _ (r8Addrs_readR8 s o o ▸ List.Subset.refl _) ⟨rfl, rfl, rfl, rfl, rfl, rfl⟩)

/-- A value made from one `r8` operand is written to another; the two may be the same. -/
theorem Accesses.readWriteR8 (src dst : R8) (v : Byte) :
    Accesses (r8Addrs s src) (r8Addrs s dst) s (Machine.writeR8 (Machine.readR8 s src).2 dst v) :=
  .readR8 src (List.Subset.refl _) (.writeR8 dst v (r8Addrs_readR8 s src dst ▸ List.Subset.refl _)
    ⟨rfl, rfl, rfl, rfl, rfl, rfl⟩)

theorem Accesses.push16 (v : Word) (same : SameBus (push16 s v) t) : Accesses rd (pushAddrs s) s t :=
  .write (s.sp - 1) (hiByte v) List.mem_cons_self (.write (s.sp - 2) (loByte v) (List.mem_cons_of_mem _ List.mem_cons_self)
    (.done ⟨same.ie, same.iflag, same.ifUpper, same.mem, same.plat, same.params⟩))

theorem Accesses.pop16 (same : SameBus (pop16 s).2 t) : Accesses [s.sp, s.sp + 1] wr s t :=
  .read s.sp List.mem_cons_self (.read (s.sp + 1) (List.mem_cons_of_mem _ List.mem_cons_self)
    (.done ⟨same.ie, same.iflag, same.ifUpper, same.mem, same.plat, same.params⟩))

/-- A load to A, after which HL may move. -/
theorem Accesses.loadA (addr : Word) (same : SameBus (loadA s addr) t) : Accesses [addr] wr s t :=
  .read addr List.mem_cons_self (.done ⟨same.ie, same.iflag, same.ifUpper, same.mem, same.plat, same.params⟩)

theorem Accesses.memWrite (addr : Word) (v : Byte) (same : SameBus (memWrite s addr v) t) : Accesses rd [addr] s t :=
  .write addr v List.mem_cons_self (.done same)

end

/-- An instruction reaches the bus by reads at the addresses it loads from and writes at those it stores to. -/
theorem exec_accesses (i : Instr) {s t : State} (h : exec i s = .next t) : Accesses (loads s i) (stores s i) s t := by
  induction i using forall_instr with
  | cbRow op2 ih =>
    rw [loads_prefixCB, stores_prefixCB]
    exact ih (exec_prefixCB op2 s ▸ h)
  | row i hrow =>
    cases i with
    | prefixCB op2 => exact absurd rfl (hrow op2)
    | halt =>
      obtain ⟨_, _, rfl⟩ := exec_halt_frame h
      exact .done ⟨rfl, rfl, rfl, rfl, rfl, rfl⟩
    | stop pad =>
      obtain ⟨_, _, rfl⟩ := exec_stop_frame h
      exact .done ⟨rfl, rfl, rfl, rfl, rfl, rfl⟩
    | ldR16Imm16 r imm | incR16 r | decR16 r =>
      obtain rfl := Host.Outcome.next.inj h
      exact .done (by constructor <;> simp)
    | ldR16MemA m =>
      obtain rfl := Host.Outcome.next.inj h
      exact .memWrite _ s.a (by constructor <;> simp)
    | ldAR16Mem m =>
      obtain rfl := Host.Outcome.next.inj h
      exact .loadA _ (by constructor <;> simp)
    | ldImm16Sp addr =>
      obtain rfl := Host.Outcome.next.inj h
      exact .write addr _ List.mem_cons_self (.write (addr + 1) _ (List.mem_cons_of_mem _ List.mem_cons_self) .refl)
    | incR8 o | decR8 o | rlcR8 o | rrcR8 o | rlR8 o | rrR8 o | slaR8 o | sraR8 o | swapR8 o | srlR8 o =>
      obtain rfl := Host.Outcome.next.inj h
      exact .modifyR8 o _
    | ldR8Imm8 o imm =>
      obtain rfl := Host.Outcome.next.inj h
      exact .writeR8 o imm (List.Subset.refl _) ⟨rfl, rfl, rfl, rfl, rfl, rfl⟩
    | ldR8R8 dst src =>
      obtain rfl := Host.Outcome.next.inj h
      exact .readWriteR8 src dst _
    | resB3R8 b o | setB3R8 b o =>
      obtain rfl := Host.Outcome.next.inj h
      exact .readWriteR8 o o _
    | addAR8 o | adcAR8 o | subAR8 o | sbcAR8 o | andAR8 o | xorAR8 o | orAR8 o | cpAR8 o | bitB3R8 b o =>
      obtain rfl := Host.Outcome.next.inj h
      exact .readR8 o (List.Subset.refl _) (.done ⟨rfl, rfl, rfl, rfl, rfl, rfl⟩)
    | ret | reti =>
      obtain rfl := Host.Outcome.next.inj h
      exact .pop16 ⟨rfl, rfl, rfl, rfl, rfl, rfl⟩
    | popR16Stk r =>
      obtain rfl := Host.Outcome.next.inj h
      exact .pop16 (by constructor <;> simp)
    | callImm16 addr | rstTgt3 tgt | pushR16Stk r =>
      obtain rfl := Host.Outcome.next.inj h
      exact .push16 _ ⟨rfl, rfl, rfl, rfl, rfl, rfl⟩
    | retCond cc =>
      obtain rfl := Host.Outcome.next.inj h
      refine .ite _ fun taken => ?_
      simp only [loads, taken, if_true]
      exact .pop16 ⟨rfl, rfl, rfl, rfl, rfl, rfl⟩
    | callCondImm16 cc addr =>
      obtain rfl := Host.Outcome.next.inj h
      refine .ite _ fun taken => ?_
      simp only [stores, taken, if_true]
      exact .push16 _ ⟨rfl, rfl, rfl, rfl, rfl, rfl⟩
    | jrCondImm8 cc e | jpCondImm16 cc addr =>
      obtain rfl := Host.Outcome.next.inj h
      exact .ite _ fun _ => .done ⟨rfl, rfl, rfl, rfl, rfl, rfl⟩
    | ldhCA | ldhImm8A off | ldImm16A addr =>
      obtain rfl := Host.Outcome.next.inj h
      exact .memWrite _ s.a ⟨rfl, rfl, rfl, rfl, rfl, rfl⟩
    | ldhAC | ldhAImm8 off | ldAImm16 addr =>
      obtain rfl := Host.Outcome.next.inj h
      exact .loadA _ ⟨rfl, rfl, rfl, rfl, rfl, rfl⟩
    | nop | addHlR16 r | rlca | rrca | rla | rra | daa | cpl | scf | ccf | jrImm8 e | addAImm8 v | adcAImm8 v | subAImm8 v
    | sbcAImm8 v | andAImm8 v | xorAImm8 v | orAImm8 v | cpAImm8 v | jpImm16 addr | jpHl | addSpImm8 e | ldHlSpImm8 e
    | ldSpHl | di | ei | invalidD3 | invalidDB | invalidDD | invalidE3 | invalidE4 | invalidEB | invalidEC | invalidED
    | invalidF4 | invalidFC | invalidFD =>
      obtain rfl := Host.Outcome.next.inj h
      exact .done ⟨rfl, rfl, rfl, rfl, rfl, rfl⟩

/-! ### What a sequence of accesses keeps -/

section
variable {rd wr : List Word} {s t : State}

theorem Accesses.params (h : Accesses rd wr s t) : t.params = s.params := by
  induction h with
  | done same => exact same.params
  | read addr _ _ ih => exact ih
  | write addr v _ _ ih => exact ih

/-- Memory stays in order (log entry 5). -/
theorem Accesses.memOk (h : Accesses rd wr s t) (hs : s.memOk = true) : t.memOk = true := by
  induction h with
  | done same => exact (memOk_congr same.mem same.params).trans hs
  | read addr _ _ ih => exact ih hs
  | write addr v _ _ ih => exact ih (memWrite_memOk addr v hs)

theorem Accesses.byteAt (h : Accesses rd wr s t) {other : Word} (hw : other ∉ wr) : t.byteAt other = s.byteAt other := by
  induction h with
  | done same =>
    exact byteAt_congr same.ie same.iflag same.ifUpper same.mem same.params (congrArg Platform.owned same.plat) other
  | read addr _ _ ih => exact ih.trans (memRead_byteAt _ addr other)
  | write addr v hmem _ ih => exact ih.trans (memWrite_byteAt_other _ v fun e => hw (e ▸ hmem))

/-- A write reaches IE at its address only (R53). -/
theorem memWrite_ie {addr : Word} (v : Byte) (h : addr ≠ s.params.ieAddr) : (Machine.memWrite s addr v).ie = s.ie := by
  rcases memWrite_spec s addr v with ⟨hp, _⟩ | ⟨_, e⟩ | ⟨_, e⟩ | ⟨_, e⟩
  · exact absurd (eq_of_place_ieReg hp) h
  all_goals rw [e]

/-- A write reaches IF at its address only (R53). -/
theorem memWrite_if {addr : Word} (v : Byte) (h : addr ≠ s.params.ifAddr) :
    (Machine.memWrite s addr v).iflag = s.iflag ∧ (Machine.memWrite s addr v).ifUpper = s.ifUpper := by
  rcases memWrite_spec s addr v with ⟨_, e⟩ | ⟨hp, _⟩ | ⟨_, e⟩ | ⟨_, e⟩
  · rw [e]; exact ⟨rfl, rfl⟩
  · exact absurd (eq_of_place_ifReg hp) h
  · rw [e]; exact ⟨rfl, rfl⟩
  · rw [e]; exact ⟨rfl, rfl⟩

theorem Accesses.ie (h : Accesses rd wr s t) (hw : s.params.ieAddr ∉ wr) : t.ie = s.ie := by
  induction h with
  | done same => exact same.ie
  | read addr _ _ ih => exact ih hw
  | write addr v hmem _ ih => exact (ih hw).trans (memWrite_ie v fun e => hw (e ▸ hmem))

theorem Accesses.interruptFlags (h : Accesses rd wr s t) (hw : s.params.ifAddr ∉ wr) :
    t.iflag = s.iflag ∧ t.ifUpper = s.ifUpper := by
  induction h with
  | done same => exact ⟨same.iflag, same.ifUpper⟩
  | read addr _ _ ih => exact ih hw
  | write addr v hmem _ ih =>
    obtain ⟨flags, upper⟩ := memWrite_if v fun e => hw (e ▸ hmem)
    exact ⟨(ih hw).1.trans flags, (ih hw).2.trans upper⟩

end

/-- Settles O57: the accesses of the instruction (`exec_accesses`), and what they keep. -/
theorem frameMemory : Obligations.FrameMemory := fun i _ _ h =>
  have acc := exec_accesses i h
  ⟨fun _ => acc.byteAt, acc.ie, acc.interruptFlags⟩

/-! ### What Platform sees of a sequence of accesses -/

/-- An event that Platform sees of an access in state `s`: a read in `rd` or a write in `wr`, at an address it owns. -/
def IsAccess (rd wr : List Word) (s : State) (ev : BusEvent) : Prop :=
  (∃ addr, ev = .read addr ∧ addr ∈ rd ∧ s.place addr = .platform) ∨
  (∃ addr v, ev = .write addr v ∧ addr ∈ wr ∧ s.place addr = .platform)

/-- Platform differs by what it has newly seen, which are such events. -/
def SeesAccesses (rd wr : List Word) (s t : State) : Prop :=
  ∃ evs : List BusEvent, t.plat = { s.plat with history := evs ++ s.plat.history } ∧ ∀ ev ∈ evs, IsAccess rd wr s ev

section
variable {rd wr : List Word} {s t u : State}

/-- An access after which Platform has seen nothing new. -/
theorem SeesAccesses.of_plat_eq (hplat : u.plat = s.plat) (hparams : u.params = s.params) (h : SeesAccesses rd wr u t) :
    SeesAccesses rd wr s t := by
  obtain ⟨evs, hevs, access⟩ := h
  refine ⟨evs, hplat ▸ hevs, fun ev hev => ?_⟩
  have samePlace := place_congr hparams (congrArg Platform.owned hplat)
  simpa only [IsAccess, samePlace] using access ev hev

/-- An access that Platform has seen. -/
theorem SeesAccesses.of_note {ev : BusEvent} (hplat : u.plat = s.plat.note ev) (hparams : u.params = s.params)
    (hev : IsAccess rd wr s ev) (h : SeesAccesses rd wr u t) : SeesAccesses rd wr s t := by
  obtain ⟨evs, hevs, access⟩ := h
  have samePlace := place_congr (s := s) (t := u) hparams (by rw [hplat, note_owned])
  refine ⟨evs ++ [ev], by rw [hevs, hplat, List.append_assoc]; rfl, fun ev' hev' => ?_⟩
  rcases List.mem_append.mp hev' with old | new
  · simpa only [IsAccess, samePlace] using access ev' old
  · rw [List.mem_singleton.mp new]
    exact hev

theorem Accesses.sees (h : Accesses rd wr s t) : SeesAccesses rd wr s t := by
  induction h with
  | done same => exact ⟨[], same.plat, nofun⟩
  | @read s t addr hmem rest ih =>
    by_cases hp : s.place addr = .platform
    · refine .of_note (u := (memRead s addr).2) (ev := .read addr) ?_ rfl (.inl ⟨addr, rfl, hmem, hp⟩) ih
      simp [memRead, hp]
    · exact .of_plat_eq (u := (memRead s addr).2) (congrArg State.plat (memRead_of_not_platform hp)) rfl ih
  | @write s t addr v hmem rest ih =>
    rcases memWrite_spec s addr v with ⟨_, e⟩ | ⟨_, e⟩ | ⟨hp, e⟩ | ⟨_, e⟩
    · exact .of_plat_eq (u := Machine.memWrite s addr v) (by rw [e]) rfl ih
    · exact .of_plat_eq (u := Machine.memWrite s addr v) (by rw [e]) rfl ih
    · exact .of_note (u := Machine.memWrite s addr v) (by rw [e]) rfl (.inr ⟨addr, v, rfl, hmem, hp⟩) ih
    · exact .of_plat_eq (u := Machine.memWrite s addr v) (by rw [e]) rfl ih

/-- Where Platform owns none of the addresses it sees nothing. -/
theorem SeesAccesses.plat_eq (h : SeesAccesses rd wr s t)
    (hp : ∀ addr, addr ∈ rd ∨ addr ∈ wr → s.place addr ≠ .platform) : t.plat = s.plat := by
  obtain ⟨evs, hevs, access⟩ := h
  cases evs with
  | nil => exact hevs
  | cons ev rest =>
    rcases access ev List.mem_cons_self with ⟨addr, _, hmem, owned⟩ | ⟨addr, v, _, hmem, owned⟩
    · exact absurd owned (hp addr (.inl hmem))
    · exact absurd owned (hp addr (.inr hmem))

end

/-- Settles O59: what Platform sees of the instruction's accesses (`exec_accesses`). -/
theorem busAccesses : Obligations.BusAccesses := fun i _ _ h =>
  have seen := (exec_accesses i h).sees
  ⟨seen, seen.plat_eq⟩

/-- Settles O58: case by case of `ControlEffect`; the parameters by `exec_accesses`. -/
theorem frameControl : Obligations.FrameControl := by
  intro i s t h
  have params : t.params = s.params := (exec_accesses i h).params
  cases exec_controlEffect h with
  | kept hi same pc =>
    exact ⟨fun ht _ => pc ht, fun _ _ => same.ime, fun _ _ _ => same.eiPending, fun _ => same.haltBug,
      fun _ _ _ => same.mode, params⟩
  | di => exact ⟨fun _ _ => rfl, fun ne => absurd rfl ne, fun ne => absurd rfl ne, fun _ => rfl, fun _ _ _ => rfl, params⟩
  | ei => exact ⟨fun _ _ => rfl, fun _ _ => rfl, fun _ _ ne => absurd rfl ne, fun _ => rfl, fun _ _ _ => rfl, params⟩
  | reti =>
    exact ⟨nofun, fun _ ne => absurd rfl ne, fun _ ne => absurd rfl ne, fun _ => returnFromInterrupt_haltBug s,
      fun _ _ _ => returnFromInterrupt_mode s, params⟩
  | haltBug | halted =>
    exact ⟨fun _ _ => rfl, fun _ _ => rfl, fun _ _ _ => rfl, fun ne => absurd rfl ne, fun ne => absurd rfl ne, params⟩
  | stopped =>
    exact ⟨fun _ _ => rfl, fun _ _ => rfl, fun _ _ _ => rfl, fun _ => rfl, fun _ ne => absurd rfl (ne 0x00), params⟩
  | @account pad e he =>
    refine ⟨fun _ noReread => ?_, fun _ _ => rfl, fun _ _ _ => rfl, fun _ => rfl, fun _ ne => absurd rfl (ne pad), params⟩
    simp [applyStop, noReread pad rfl e he]
  | locked hi =>
    exact ⟨fun _ _ => rfl, fun _ _ => rfl, fun _ _ _ => rfl, fun _ => rfl, fun _ _ valid => absurd (valid.symm.trans hi) nofun,
      params⟩

/-! ## Registers (R22 to R24) -/

/-- Every register but those in `rs` is as it was. -/
structure SameRegs (rs : List Reg) (s t : State) : Prop where
  a : .a ∉ rs → t.a = s.a
  b : .b ∉ rs → t.b = s.b
  c : .c ∉ rs → t.c = s.c
  d : .d ∉ rs → t.d = s.d
  e : .e ∉ rs → t.e = s.e
  h : .h ∉ rs → t.h = s.h
  l : .l ∉ rs → t.l = s.l
  sp : .sp ∉ rs → t.sp = s.sp

theorem SameRegs.reg {rs : List Reg} {s t : State} (same : SameRegs rs s t) {r : Reg} (hr : r ∉ rs) : t.reg r = s.reg r := by
  cases r with
  | a => exact congrArg zext16 (same.a hr)
  | b => exact congrArg zext16 (same.b hr)
  | c => exact congrArg zext16 (same.c hr)
  | d => exact congrArg zext16 (same.d hr)
  | e => exact congrArg zext16 (same.e hr)
  | h => exact congrArg zext16 (same.h hr)
  | l => exact congrArg zext16 (same.l hr)
  | sp => exact same.sp hr

/-- For a conditional transfer. -/
theorem SameRegs.ite {rs : List Reg} {s t : State} (h : SameRegs rs s t) (c : Bool) : SameRegs rs s (if c then t else s) := by
  cases c
  · constructor <;> exact fun _ => rfl
  · exact h

/-- A write of an `r8` operand, whatever was read before it, changes its register alone. -/
theorem sameRegs_readWriteR8 (s : State) (src dst : R8) (v : Byte) :
    SameRegs (r8Regs dst) s (writeR8 (readR8 s src).2 dst v) := by
  cases dst <;> constructor <;> simp [writeR8, r8Regs]

theorem sameRegs_writeR8 (s : State) (o : R8) (v : Byte) : SameRegs (r8Regs o) s (writeR8 s o v) :=
  sameRegs_readWriteR8 s .a o v

theorem sameRegs_modifyR8 (s : State) (o : R8) (change : Byte → Byte × Flags) :
    SameRegs (r8Regs o) s (modifyR8 s o change) :=
  have same := sameRegs_readWriteR8 s o o (change (readR8 s o).1).1
  ⟨same.a, same.b, same.c, same.d, same.e, same.h, same.l, same.sp⟩

theorem sameRegs_writeR16 (s : State) (r : R16) (v : Word) : SameRegs (r16Regs r) s (writeR16 s r v) := by
  cases r <;> constructor <;> simp [writeR16, r16Regs]

theorem sameRegs_pop (s : State) (r : R16Stk) (v : Word) :
    SameRegs (.sp :: r16StkRegs r) s (writeR16Stk (pop16 s).2 r v) := by
  cases r <;> constructor <;> simp [writeR16Stk, r16StkRegs]

/-- HL moves with `[hl+]` and `[hl-]` (R87). -/
theorem sameRegs_memWrite_postModify (s : State) (addr : Word) (v : Byte) (m : R16Mem) :
    SameRegs (r16MemModified m) s (postModify (memWrite s addr v) m) := by
  cases m <;> constructor <;> simp [postModify, r16MemModified]

theorem sameRegs_loadA_postModify (s : State) (addr : Word) (m : R16Mem) :
    SameRegs (.a :: r16MemModified m) s (postModify (loadA s addr) m) := by
  cases m <;> constructor <;> simp [postModify, r16MemModified]

/-- No instruction writes a register but its destinations. -/
theorem exec_sameRegs (i : Instr) {s t : State} (h : exec i s = .next t) : SameRegs (dests i) s t := by
  induction i using forall_instr with
  | cbRow op2 ih =>
    rw [dests_prefixCB]
    exact ih (exec_prefixCB op2 s ▸ h)
  | row i hrow =>
    cases i with
    | prefixCB op2 => exact absurd rfl (hrow op2)
    | halt =>
      obtain ⟨_, _, rfl⟩ := exec_halt_frame h
      constructor <;> exact fun _ => rfl
    | stop pad =>
      obtain ⟨_, _, rfl⟩ := exec_stop_frame h
      constructor <;> exact fun _ => rfl
    | ldR16Imm16 r imm | incR16 r | decR16 r =>
      obtain rfl := Host.Outcome.next.inj h
      exact sameRegs_writeR16 s r _
    | ldR16MemA m =>
      obtain rfl := Host.Outcome.next.inj h
      exact sameRegs_memWrite_postModify s _ s.a m
    | ldAR16Mem m =>
      obtain rfl := Host.Outcome.next.inj h
      exact sameRegs_loadA_postModify s _ m
    | incR8 o | decR8 o | rlcR8 o | rrcR8 o | rlR8 o | rrR8 o | slaR8 o | sraR8 o | swapR8 o | srlR8 o =>
      obtain rfl := Host.Outcome.next.inj h
      exact sameRegs_modifyR8 s o _
    | ldR8Imm8 o imm =>
      obtain rfl := Host.Outcome.next.inj h
      exact sameRegs_writeR8 s o imm
    | ldR8R8 dst src =>
      obtain rfl := Host.Outcome.next.inj h
      exact sameRegs_readWriteR8 s src dst _
    | resB3R8 b o | setB3R8 b o =>
      obtain rfl := Host.Outcome.next.inj h
      exact sameRegs_readWriteR8 s o o _
    | popR16Stk r =>
      obtain rfl := Host.Outcome.next.inj h
      exact sameRegs_pop s r _
    | retCond cc | callCondImm16 cc addr | jrCondImm8 cc e | jpCondImm16 cc addr =>
      obtain rfl := Host.Outcome.next.inj h
      exact .ite (by constructor <;> simp [dests]) _
    | nop | ldImm16Sp addr | addHlR16 r | rlca | rrca | rla | rra | daa | cpl | scf | ccf | jrImm8 e | addAR8 o | adcAR8 o
    | subAR8 o | sbcAR8 o | andAR8 o | xorAR8 o | orAR8 o | cpAR8 o | bitB3R8 b o | addAImm8 v | adcAImm8 v | subAImm8 v
    | sbcAImm8 v | andAImm8 v | xorAImm8 v | orAImm8 v | cpAImm8 v | ret | reti | jpImm16 addr | jpHl | callImm16 addr
    | rstTgt3 tgt | pushR16Stk r | ldhCA | ldhImm8A off | ldImm16A addr | ldhAC | ldhAImm8 off | ldAImm16 addr | addSpImm8 e
    | ldHlSpImm8 e | ldSpHl | di | ei | invalidD3 | invalidDB | invalidDD | invalidE3 | invalidE4 | invalidEB | invalidEC
    | invalidED | invalidF4 | invalidFC | invalidFD =>
      obtain rfl := Host.Outcome.next.inj h
      constructor <;> simp [dests]

/-! ## Flags (R28) -/

theorem allows_of_eq {row : FlagRow} (hrow : row = .untouched) {before after : Flags} (h : after = before) :
    row.allows before after = true := by
  subst hrow h
  simp [FlagRow.allows, FlagEntry.allows, FlagRow.untouched]

/-! The operations on bytes that several rows of R28 share. -/

theorem allows_add8 (f : Flags) (a v : Byte) (cin : Bool) :
    FlagRow.allows ⟨.computed, .cleared, .computed, .computed⟩ f (add8 a v cin).2 = true := rfl

theorem allows_sub8 (f : Flags) (a v : Byte) (cin : Bool) :
    FlagRow.allows ⟨.computed, .set, .computed, .computed⟩ f (sub8 a v cin).2 = true := rfl

theorem allows_shiftFlags (f : Flags) (r : Byte × Bool) :
    FlagRow.allows ⟨.computed, .cleared, .cleared, .computed⟩ f (shiftFlags r).2 = true := rfl

theorem allows_rotateAFlags (f : Flags) (r : Byte × Bool) :
    FlagRow.allows ⟨.cleared, .cleared, .cleared, .computed⟩ f (rotateAFlags r).2 = true := rfl

/-- F is kept, or written as its row of R28 says. -/
theorem exec_flags (i : Instr) {s t : State} (h : exec i s = .next t) : (flagRow i).allows s.f t.f = true := by
  induction i using forall_instr with
  | cbRow op2 ih =>
    rw [flagRow_prefixCB]
    exact ih (exec_prefixCB op2 s ▸ h)
  | row i hrow =>
    cases i with
    | prefixCB op2 => exact absurd rfl (hrow op2)
    | halt =>
      obtain ⟨_, _, rfl⟩ := exec_halt_frame h
      exact allows_of_eq rfl rfl
    | stop pad =>
      obtain ⟨_, _, rfl⟩ := exec_stop_frame h
      exact allows_of_eq rfl rfl
    | addAR8 o | adcAR8 o | addAImm8 v | adcAImm8 v =>
      obtain rfl := Host.Outcome.next.inj h
      exact allows_add8 s.f _ _ _
    | subAR8 o | sbcAR8 o | cpAR8 o | subAImm8 v | sbcAImm8 v | cpAImm8 v =>
      obtain rfl := Host.Outcome.next.inj h
      exact allows_sub8 s.f _ _ _
    | rlca | rrca | rla | rra =>
      obtain rfl := Host.Outcome.next.inj h
      exact allows_rotateAFlags s.f _
    | rlcR8 o | rrcR8 o | rlR8 o | rrR8 o | slaR8 o | sraR8 o | srlR8 o =>
      obtain rfl := Host.Outcome.next.inj h
      exact allows_shiftFlags s.f _
    | andAR8 o | xorAR8 o | orAR8 o | andAImm8 v | xorAImm8 v | orAImm8 v | addSpImm8 e | ldHlSpImm8 e | swapR8 o =>
      obtain rfl := Host.Outcome.next.inj h
      rfl
    | incR8 o | decR8 o | addHlR16 r | daa | cpl | scf | ccf | bitB3R8 b o =>
      obtain rfl := Host.Outcome.next.inj h
      simp [flagRow, FlagRow.allows, FlagEntry.allows, inc8, dec8, add16, daaResult, bitFlags]
    | popR16Stk r =>
      obtain rfl := Host.Outcome.next.inj h
      cases r with
      | af => rfl
      | bc | de | hl => exact allows_of_eq rfl (pop16_f s)
    | retCond cc | callCondImm16 cc addr | jrCondImm8 cc e | jpCondImm16 cc addr =>
      obtain rfl := Host.Outcome.next.inj h
      refine allows_of_eq rfl ?_
      split <;> simp
    | nop | ldR16Imm16 r imm | ldR16MemA m | ldAR16Mem m | ldImm16Sp addr | incR16 r | decR16 r | ldR8Imm8 o imm
    | jrImm8 e | ldR8R8 dst src | ret | reti | jpImm16 addr | jpHl | callImm16 addr | rstTgt3 tgt | pushR16Stk r | ldhCA
    | ldhImm8A off | ldImm16A addr | ldhAC | ldhAImm8 off | ldAImm16 addr | ldSpHl | di | ei | resB3R8 b o | setB3R8 b o
    | invalidD3 | invalidDB | invalidDD | invalidE3 | invalidE4 | invalidEB | invalidEC | invalidED | invalidF4 | invalidFC
    | invalidFD =>
      obtain rfl := Host.Outcome.next.inj h
      exact allows_of_eq rfl (by simp)

/-- Settles O56: `exec_sameRegs` and `exec_flags`. -/
theorem frameRegistersAndFlags : Obligations.FrameRegistersAndFlags := fun i _ _ h =>
  ⟨fun _ => (exec_sameRegs i h).reg, exec_flags i h⟩

end Sys2Proof.Frames
end

section
/-! PROOFS of the statements about a step and about runs (60_exceptions.md R220 to R253, 30_encoding.md R81, R82,
70_reset_and_hazards.md R270, R271): what is fetched, what Platform does, and what each field of the control state can
become, all from `cpuStep_next` and `ControlEffect`. -/
namespace Sys2Proof.Steps
open Sys2Proof.Machine Sys2Proof.Encoding Sys2Proof.Block0 Sys2Proof.Block1 Sys2Proof.Block3Misc Sys2Proof.Frames

/-! ## Fetching the bytes of an instruction (R81, R82) -/

/-- The bytes of one instruction, by its length. -/
theorem decodeBytes_exact {op : Byte} {bs : List Byte} {i : Instr} (h : decodeBytes (op :: bs) = .ok (i, [])) :
    (opcodeLength op = 1 ∧ bs = [] ∧ i = decode op 0 0) ∨
    (opcodeLength op = 2 ∧ ∃ b1, bs = [b1] ∧ i = decode op b1 0) ∨
    (opcodeLength op = 3 ∧ ∃ b1 b2, bs = [b1, b2] ∧ i = decode op b1 b2) := by
  rcases opcodeLength_spec op with ⟨_, hl⟩ | ⟨_, hl⟩ | hl
  · match bs with
    | b1 :: b2 :: more =>
      simp only [decodeBytes, hl, Except.ok.injEq, Prod.mk.injEq] at h
      obtain ⟨rfl, rfl⟩ := h
      exact .inr (.inr ⟨hl, b1, b2, rfl, rfl⟩)
    | [] => simp [decodeBytes, hl] at h
    | [b1] => simp [decodeBytes, hl] at h
  · match bs with
    | b1 :: more =>
      simp only [decodeBytes, hl, Except.ok.injEq, Prod.mk.injEq] at h
      obtain ⟨rfl, rfl⟩ := h
      exact .inr (.inl ⟨hl, b1, rfl, rfl⟩)
    | [] => simp [decodeBytes, hl] at h
  · simp only [decodeBytes, hl, Except.ok.injEq, Prod.mk.injEq] at h
    obtain ⟨rfl, rfl⟩ := h
    exact .inl ⟨hl, rfl, rfl⟩

theorem add_one_add_ofNat (v : Word) (k : Nat) : v + 1 + BitVec.ofNat 16 k = v + BitVec.ofNat 16 (k + 1) := by
  rw [Nat.add_comm k, BitVec.ofNat_add, ← BitVec.add_assoc]
  rfl

/-- Once the opcode is fetched, with no HALT bug armed any more, the operand bytes are those from PC on. -/
theorem fetchInstr_of_bytes {s t : State} {op : Byte} {bs : List Byte} {i : Instr} (hf : fetch8 s = (op, t))
    (hb : t.haltBug = false) (hd : decodeBytes (op :: bs) = .ok (i, []))
    (hbs : ∀ k (h : k < bs.length), t.byteAt (t.pc + BitVec.ofNat 16 k) = some bs[k]) :
    fetchInstr s = (i, { t with pc := t.pc + BitVec.ofNat 16 bs.length }) := by
  rcases decodeBytes_exact hd with ⟨hl, rfl, rfl⟩ | ⟨hl, b1, rfl, rfl⟩ | ⟨hl, b1, b2, rfl, rfl⟩
  · simp [fetchInstr_of_length_one hf hl]
  · have fetch1 : fetch8 t = (b1, { t with pc := t.pc + 1 }) :=
      fetch8_of_byteAt hb (by simpa using hbs 0 (by simp))
    simp [fetchInstr, hf, hl, fetch1]
  · have fetch1 : fetch8 t = (b1, { t with pc := t.pc + 1 }) :=
      fetch8_of_byteAt hb (by simpa using hbs 0 (by simp))
    have fetch2 : fetch8 { t with pc := t.pc + 1 } = (b2, { t with pc := t.pc + 1 + 1 }) :=
      fetch8_of_byteAt hb (hbs 1 (by simp))
    have pc2 : t.pc + 1 + 1 = t.pc + BitVec.ofNat 16 [b1, b2].length := add_one_add_ofNat t.pc 1
    simp only [fetchInstr, hf, hl, fetch1, fetch2, pc2]

/-- With no HALT bug armed the opcode and the operand bytes are those from PC on. -/
theorem fetchInstr_of_bytes_at_pc {s : State} {bs : List Byte} {i : Instr} (hb : s.haltBug = false)
    (hd : decodeBytes bs = .ok (i, []))
    (hbs : ∀ k (h : k < bs.length), s.byteAt (s.pc + BitVec.ofNat 16 k) = some bs[k]) :
    fetchInstr s = (i, { s with pc := s.pc + BitVec.ofNat 16 bs.length }) := by
  match bs with
  | [] => exact nomatch hd
  | op :: rest =>
    have fetched : fetch8 s = (op, { s with pc := s.pc + 1 }) :=
      fetch8_of_byteAt hb ((congrArg s.byteAt (BitVec.add_zero s.pc)).symm.trans (hbs 0 (Nat.succ_pos _)))
    rw [fetchInstr_of_bytes fetched hb hd, add_one_add_ofNat, List.length_cons]
    intro k hk
    rw [add_one_add_ofNat]
    exact hbs (k + 1) (Nat.succ_lt_succ hk)

/-- The HALT bug: the byte at PC is fetched and PC does not move (R271). -/
theorem fetch8_of_haltBug {s : State} {v : Byte} (hb : s.haltBug = true) (hv : s.byteAt s.pc = some v) :
    fetch8 s = (v, { s with haltBug := false }) := by
  simp [fetch8, memRead_of_byteAt hv, hb]

/-- Settles O7: the step executes one instruction, which is the one whose bytes stand at PC. -/
theorem stepRunsDecodedInstr : Obligations.StepRunsDecodedInstr := by
  intro s bs i u hmode hdispatch hbug hd hbs
  calc step s = executeOne u := cpuStep_eq_executeOne hmode hdispatch
    _ = _ := by
      rw [executeOne, fetchInstr_of_bytes_at_pc hbug hd hbs]
      rfl

/-- With no `ei` just executed one instruction is its fetch and its meaning. -/
theorem executeOne_of_eiPending_false {s : State} (h : s.eiPending = false) :
    executeOne s = exec (fetchInstr s).1 (fetchInstr s).2 := by
  rw [executeOne, h]
  cases exec (fetchInstr s).1 (fetchInstr s).2 <;> rfl

/-- The step after the HALT bug (R271): the byte at PC is the opcode, and is read again as the first operand byte. -/
theorem step_of_haltBug {s : State} {b0 : Byte} {bs : List Byte} {i : Instr} (hmode : (platformAct s).mode = .running)
    (hime : (platformAct s).ime = false) (hei : (platformAct s).eiPending = false)
    (hbug : (platformAct s).haltBug = true) (hd : decodeBytes (b0 :: bs) = .ok (i, []))
    (hb0 : (platformAct s).byteAt (platformAct s).pc = some b0)
    (hbs : ∀ k (h : k < bs.length), (platformAct s).byteAt ((platformAct s).pc + BitVec.ofNat 16 k) = some bs[k]) :
    step s = exec i { platformAct s with
      haltBug := false, pc := (platformAct s).pc + BitVec.ofNat 16 bs.length } := by
  calc step s = executeOne (platformAct s) := cpuStep_eq_executeOne hmode (.inl hime)
    _ = _ := by rw [executeOne_of_eiPending_false hei, fetchInstr_of_bytes (fetch8_of_haltBug hbug hb0) rfl hd hbs]

/-- `halt` arms the HALT bug (R142, R271). -/
theorem exec_halt_haltBug {s : State} (hime : s.ime = false) (hei : s.eiPending = false) (hp : s.pending ≠ 0) :
    exec .halt s = .next { s with haltBug := true } :=
  execHalt_haltBug hei hime (hasPending_of_pending_ne_zero hp)

/-- Settles O9: `exec_halt_haltBug` and `step_of_haltBug`; a `halt` fetched so clears the bug and arms it again. -/
theorem haltBugFetch : Obligations.HaltBugFetch := by
  refine ⟨fun s => exec_halt_haltBug, fun s b0 bs i => step_of_haltBug, ?_⟩
  intro s hinbox hmode hime hei hbug hp hbyte
  have idle : platformAct s = s := by simp [platformAct, hinbox]
  have run := step_of_haltBug (s := s) (b0 := 0x76) (bs := []) (i := .halt)
  rw [idle] at run
  calc step s = exec .halt { s with haltBug := false, pc := s.pc + BitVec.ofNat 16 0 } :=
        run hmode hime hei hbug rfl hbyte nofun
    _ = exec .halt { s with haltBug := false } := by rw [BitVec.add_zero]
    _ = .next { s with haltBug := true } := exec_halt_haltBug hime hei hp
    _ = .next s := by rw [← hbug]

/-! ## What Platform does (R9, R229) -/

/-- While Stopped, only the joypad's request can become set (U23). -/
theorem platformAct_iflag_of_stopped {s : State} (hm : s.mode = .stopped) {k : Nat} (hk : k < 4) :
    (platformAct s).iflag.getLsbD k = s.iflag.getLsbD k := by
  rcases platformAct_spec s with ⟨_, e⟩ | ⟨act, rest, _, e⟩ <;> rw [e]
  have joypad : (0b10000#5).getLsbD k = false := by interval_cases k <;> rfl
  simp [allowedRequests, hm, joypad]

/-- Settles O21: `platformAct_spec`, with the requests that the mode allows. -/
theorem platformActs : Obligations.PlatformActs := by
  refine ⟨fun s h => ?_, fun s act rest h => ?_⟩
  · simp [platformAct, h]
  · simp only [platformAct, h, allowedRequests]
    cases s.mode <;> rfl

/-- `n` actions of Platform in a row: the first `n` of its list, as far as it goes. -/
theorem platformAct_iterate (n : Nat) (s : State) :
    platformAct^[n] s = { s with
      iflag := (s.plat.inbox.take n).foldl (fun iflag act => iflag ||| allowedRequests s.mode act.requests) s.iflag
      plat := { s.plat with
        inbox := s.plat.inbox.drop n
        joypadWake := (s.plat.inbox.take n).foldl (fun _ act => act.joypadWake) s.plat.joypadWake
        history := (s.plat.inbox.take n).reverse.map BusEvent.act ++ s.plat.history } } := by
  induction n generalizing s with
  | zero => rfl
  | succ n ih =>
    rw [Function.iterate_succ_apply, ih]
    rcases platformAct_spec s with ⟨hinbox, e⟩ | ⟨act, rest, hinbox, e⟩ <;> rw [e]
    · simp [hinbox]
    · simp [hinbox]

/-- A core whose steps are Platform's actions alone, for as long as `P` holds. -/
theorem runSteps_of_idle {P : State → Prop} (idle : ∀ s, P s → step s = .next (platformAct s) ∧ P (platformAct s))
    (n : Nat) {s : State} (h : P s) : runSteps n s = .next (platformAct^[n] s) := by
  induction n generalizing s with
  | zero => rfl
  | succ n ih =>
    obtain ⟨hstep, hnext⟩ := idle s h
    rw [runSteps, hstep, Function.iterate_succ_apply]
    exact ih hnext

/-! ## Locked and Stopped (R221, R238) -/

/-- Settles O12: a locked core is idle for ever, and Platform may raise every request. -/
theorem lockedForever : Obligations.LockedForever := by
  refine ⟨fun i s h => exec_of_isInvalid h s, fun n s hm => ?_⟩
  have idle : ∀ s : State, s.mode = .locked → step s = .next (platformAct s) ∧ (platformAct s).mode = .locked :=
    fun s h => ⟨step_of_locked h, (platformAct_mode s).trans h⟩
  rw [runSteps_of_idle idle n hm, platformAct_iterate, hm]
  rfl

theorem step_of_stopped {s : State} (hm : s.mode = .stopped) :
    step s = .next (if (platformAct s).stopWakes then { platformAct s with mode := .running } else platformAct s) := by
  simp only [step, cpuStep, platformAct_mode, hm]

/-- A core that stays Stopped by default: nothing of Platform's is a wake (R238). -/
def SleepsOn (s : State) : Prop :=
  s.mode = .stopped ∧ s.params.stop.wake = [] ∧ s.plat.joypadWake = false ∧ ∀ act ∈ s.plat.inbox, act.joypadWake = false

theorem SleepsOn.platformAct {s : State} (h : SleepsOn s) : SleepsOn (platformAct s) := by
  obtain ⟨hm, hwake, hjoypad, hinbox⟩ := h
  refine ⟨(platformAct_mode s).trans hm, (congrArg (·.stop.wake) (platformAct_params s)).trans hwake, ?_⟩
  rcases platformAct_spec s with ⟨_, e⟩ | ⟨act, rest, hacts, e⟩ <;> rw [e]
  · exact ⟨hjoypad, hinbox⟩
  · rw [hacts] at hinbox
    exact ⟨hinbox act List.mem_cons_self, fun a ha => hinbox a (List.mem_cons_of_mem _ ha)⟩

theorem SleepsOn.idle {s : State} (h : SleepsOn s) :
    step s = .next (Machine.platformAct s) ∧ SleepsOn (Machine.platformAct s) := by
  obtain ⟨_, hwake, hjoypad, _⟩ := h.platformAct
  refine ⟨?_, h.platformAct⟩
  rw [step_of_stopped h.1, stopWakes_of_nil hwake, hjoypad]
  rfl

theorem foldl_joypadWake_eq_false {acts : List PlatformAct} (h : ∀ act ∈ acts, act.joypadWake = false) :
    acts.foldl (fun _ act => act.joypadWake) false = false := by
  induction acts with
  | nil => rfl
  | cons act rest ih =>
    rw [List.foldl_cons, h act List.mem_cons_self]
    exact ih fun a ha => h a (List.mem_cons_of_mem _ ha)

/-- Settles O14: one step by `step_of_stopped`; a core that sleeps on is idle for ever, and JoypadWake stays absent. -/
theorem stoppedWakes : Obligations.StoppedWakes := by
  refine ⟨?once, ?forever⟩
  case once =>
    intro s u wakes hm
    have wakes_eq : u.stopWakes = wakes := by
      simp only [State.stopWakes, State.wakeSituation, wakes]
      cases List.lookup _ u.params.stop.wake <;> rfl
    have hstep : step s = .next (if wakes then { u with mode := .running } else u) := wakes_eq ▸ step_of_stopped hm
    refine ⟨fun hw => ?_, fun hw => ?_, fun k => platformAct_iflag_of_stopped hm⟩
    · rw [hstep, hw]; rfl
    · rw [hstep, hw]; rfl
  case forever =>
    intro n s hm hwake hjoypad hinbox
    have absent := foldl_joypadWake_eq_false fun act (ha : act ∈ s.plat.inbox.take n) => hinbox act (List.mem_of_mem_take ha)
    rw [runSteps_of_idle (fun _ => SleepsOn.idle) n ⟨hm, hwake, hjoypad, hinbox⟩, platformAct_iterate, hjoypad, absent,
      ← hjoypad, hm]
    rfl

theorem exec_stop (pad : Byte) (s : State) : exec (.stop pad) s = execStop pad s := rfl

/-- The default of `stop`, where no account lists the situation (R132). -/
theorem execStop_default {pad : Byte} {s : State} (h : s.stopAccount pad = none) :
    execStop pad s =
      if pad ≠ 0x00 then .refused .stopSecondByteNotZero
      else if s.hasPending || s.plat.joypadWake then .refused .stopWakeConditionHolds
      else .next { s with mode := .stopped } := by
  rw [execStop, h]

/-- Settles O15: the default by `execStop_default`, and `platformAct_iflag_of_stopped`. -/
theorem stopRule : Obligations.StopRule := by
  refine ⟨fun pad => encodes_of_length_two rfl rfl, ?stops, ?padding, ?wake, ?account, fun pad s h => stopAccount_of_nil h pad,
    fun s k hm => platformAct_iflag_of_stopped hm⟩
  case stops =>
    intro s hn hp hj
    rw [exec_stop, execStop_default hn, hasPending_of_pending_eq_zero hp, hj]
    rfl
  case padding =>
    intro pad s hn hpad
    rw [exec_stop, execStop_default hn, if_pos hpad]
  case wake =>
    intro s hn hw
    have holds : (s.hasPending || s.plat.joypadWake) = true := by
      rcases hw with hp | hj
      · simp [hasPending_of_pending_ne_zero hp]
      · simp [hj]
    rw [exec_stop, execStop_default hn, holds]
    rfl
  case account =>
    intro pad s e he
    have listed : s.stopAccount pad = some e := he
    rw [exec_stop, execStop, listed]
    rfl

/-! ## What a fetch leaves alone -/

@[simp] theorem fetchInstr_ime (s : State) : (fetchInstr s).2.ime = s.ime := by
  obtain ⟨p, q, e⟩ := fetchInstr_snd s
  rw [e]

@[simp] theorem fetchInstr_eiPending (s : State) : (fetchInstr s).2.eiPending = s.eiPending := by
  obtain ⟨p, q, e⟩ := fetchInstr_snd s
  rw [e]

/-- A HALT bug armed before is gone after the fetch (R82). -/
@[simp] theorem fetchInstr_haltBug (s : State) : (fetchInstr s).2.haltBug = false := by
  obtain ⟨p, q, e⟩ := fetchInstr_snd s
  rw [e]

theorem fetchInstr_memOk (s : State) : (fetchInstr s).2.memOk = s.memOk := by
  obtain ⟨p, q, e⟩ := fetchInstr_snd s
  rw [e]
  exact memOk_congr rfl rfl

theorem fetchInstr_pending (s : State) : (fetchInstr s).2.pending = s.pending := by
  obtain ⟨p, q, e⟩ := fetchInstr_snd s
  rw [e]
  rfl

theorem fetch8_joypadWake (s : State) : (fetch8 s).2.plat.joypadWake = s.plat.joypadWake := by
  rcases fetch8_spec s with ⟨_, e⟩ | ⟨_, e⟩ <;> rw [e] <;> exact memRead_joypadWake s s.pc

theorem fetchInstr_joypadWake (s : State) : (fetchInstr s).2.plat.joypadWake = s.plat.joypadWake := by
  rw [fetchInstr_eq]
  dsimp only
  split_ifs <;> simp only [fetch8_joypadWake]

/-! ## The invariant (R222, log entry 5) -/

theorem platformAct_haltBug (s : State) : (platformAct s).haltBug = s.haltBug := by rw [platformAct_eq]

theorem platformAct_eiPending (s : State) : (platformAct s).eiPending = s.eiPending := by rw [platformAct_eq]

theorem platformAct_inv {s : State} (h : s.Inv) : (platformAct s).Inv := by
  obtain ⟨mem, bug⟩ := h
  refine ⟨(memOk_congr (platformAct_mem s) (platformAct_params s)).trans mem, fun hb => ?_⟩
  rw [platformAct_haltBug] at hb
  rw [platformAct_mode, platformAct_ime, platformAct_eiPending]
  exact bug hb

/-- What a dispatch makes of the control state and the invariant (R232). -/
structure EntersHandler (s t : State) : Prop where
  ime : t.ime = false
  eiPending : t.eiPending = false
  haltBug : t.haltBug = s.haltBug
  mode : t.mode = s.mode
  params : t.params = s.params
  memOk : s.memOk = true → t.memOk = true

theorem entersHandler_of_dispatch {s t : State} (h : dispatchInterrupt s = .next t) : EntersHandler s t := by
  rcases dispatchInterrupt_spec s with ⟨_, e⟩ | ⟨_, e⟩
  · exact nomatch e.symm.trans h
  · obtain rfl := Host.Outcome.next.inj (e.symm.trans h)
    exact ⟨by simp, by simp, by simp, by simp, by simp, fun mem =>
      push16_memOk (s := { s with
        ime := false, eiPending := false, iflag := clearRequest s.iflag (leastSetBit s.pending) }) s.pc mem⟩

/-- An instruction can arm the HALT bug only as R222's invariant allows. -/
theorem haltBugOk_of_controlEffect {s t : State} {i : Instr} (h : ControlEffect s i t) (hbug : s.haltBug = false)
    (hm : s.mode = .running) : t.haltBugOk := by
  intro armed
  cases h with
  | haltBug hei hime => exact ⟨hm, hime, hei⟩
  | kept _ same => exact nomatch (armed.symm.trans same.haltBug).trans hbug
  | reti => exact nomatch (armed.symm.trans (returnFromInterrupt_haltBug s)).trans hbug
  | di | ei | halted | stopped | account | locked => exact nomatch armed.symm.trans hbug

/-- The EI delay does not act in a state where the HALT bug is armed. -/
theorem haltBugOk_enableAfter (before : Bool) {s : State} (h : s.haltBugOk) : (enableAfter before s).haltBugOk := by
  rcases enableAfter_spec before s with ⟨_, hei, e⟩ | ⟨_, e⟩ <;> rw [e]
  · intro armed
    obtain ⟨_, _, hei'⟩ := h armed
    exact nomatch hei.symm.trans hei'
  · exact h

theorem enableAfter_memOk (before : Bool) (s : State) : (enableAfter before s).memOk = s.memOk := by
  rcases enableAfter_spec before s with ⟨_, _, e⟩ | ⟨_, e⟩ <;> rw [e]
  exact memOk_congr rfl rfl

/-- One instruction of a running core keeps the invariant: the fetch clears the HALT bug, and the instruction may arm it. -/
theorem executeOne_inv {s t : State} (h : executeOne s = .next t) (hm : s.mode = .running) :
    (s.Inv → t.Inv) ∧ t.params = s.params := by
  obtain ⟨u, hu, rfl⟩ := executeOne_next h
  have acc := exec_accesses _ hu
  refine ⟨fun ⟨mem, _⟩ => ⟨?_, ?_⟩, ?_⟩
  · rw [enableAfter_memOk]
    exact acc.memOk ((fetchInstr_memOk s).trans mem)
  · exact haltBugOk_enableAfter _
      (haltBugOk_of_controlEffect (exec_controlEffect hu) (fetchInstr_haltBug s) ((fetchInstr_mode s).trans hm))
  · rw [enableAfter_params, acc.params, fetchInstr_params]

/-- A dispatch keeps the invariant: with IME = 1 no HALT bug was armed. -/
theorem dispatchInterrupt_inv {s t : State} (h : dispatchInterrupt s = .next t) (hime : s.ime = true) :
    (s.Inv → t.Inv) ∧ t.params = s.params := by
  have entered := entersHandler_of_dispatch h
  refine ⟨fun ⟨mem, bug⟩ => ⟨entered.memOk mem, fun armed => ?_⟩, entered.params⟩
  obtain ⟨_, disabled, _⟩ := bug (entered.haltBug.symm.trans armed)
  exact nomatch disabled.symm.trans hime

/-- A core that is not running has no HALT bug armed, and may change its mode. -/
theorem inv_setMode {s : State} (h : s.Inv) (hm : s.mode ≠ .running) (mode : Mode) : ({ s with mode := mode } : State).Inv :=
  ⟨h.1, fun armed => absurd (h.2 armed).1 hm⟩

/-- The core's part of a step keeps the invariant, branch by branch. -/
theorem cpuStep_inv {s t : State} (h : cpuStep s = .next t) : (s.Inv → t.Inv) ∧ t.params = s.params := by
  have runs (hm : s.mode = .running ∨ s.mode = .halted ∧ s.hasPending = true) (inv : s.Inv) :
      ({ s with mode := .running } : State).Inv := by
    rcases hm with hm | ⟨hm, _⟩
    · rw [← hm]
      exact inv
    · exact inv_setMode inv (by rw [hm]; decide) _
  rcases cpuStep_next h with ⟨_, rfl⟩ | ⟨_, _, rfl⟩ | ⟨hm, _, rfl⟩ | ⟨_, _, rfl⟩ | ⟨hm, hime, _, hd⟩ | ⟨hm, _, he⟩
  · exact ⟨id, rfl⟩
  · exact ⟨id, rfl⟩
  · exact ⟨fun inv => inv_setMode inv (by rw [hm]; decide) _, rfl⟩
  · exact ⟨id, rfl⟩
  · obtain ⟨keeps, params⟩ := dispatchInterrupt_inv hd hime
    exact ⟨fun inv => keeps (runs hm inv), params⟩
  · obtain ⟨keeps, params⟩ := executeOne_inv he rfl
    exact ⟨fun inv => keeps (runs hm inv), params⟩

/-- Settles O22: Platform's action keeps the invariant (`platformAct_inv`), and so does the core's part (`cpuStep_inv`). -/
theorem invKeptByStep : Obligations.InvKeptByStep := by
  intro s t h
  obtain ⟨keeps, params⟩ := cpuStep_inv h
  exact ⟨fun inv => keeps (platformAct_inv inv), params.trans (platformAct_params s)⟩

/-! ## IME and `ei_pending` (R223, R224) -/

/-- What an instruction does to IME and `ei_pending`. -/
theorem exec_interrupts {i : Instr} {s t : State} (h : exec i s = .next t) :
    (i ≠ .di ∧ t.ime = s.ime ∧ (t.eiPending = s.eiPending ∨ t.eiPending = true)) ∨
    (i = .di ∧ t.ime = false ∧ t.eiPending = false) ∨
    (i = .reti ∧ t.ime = true ∧ t.eiPending = false) := by
  cases exec_controlEffect h with
  | kept hi same => exact .inl ⟨fun e => (by rw [e] at hi; exact nomatch hi), same.ime, .inl same.eiPending⟩
  | di => exact .inr (.inl ⟨rfl, rfl, rfl⟩)
  | reti => exact .inr (.inr ⟨rfl, rfl, rfl⟩)
  | ei => exact .inl ⟨nofun, rfl, .inr rfl⟩
  | haltBug | halted | stopped | account => exact .inl ⟨nofun, rfl, .inl rfl⟩
  | locked hi => exact .inl ⟨fun e => (by rw [e] at hi; exact nomatch hi), rfl, .inl rfl⟩

/-- What one whole instruction does to IME: `di`, `reti`, and the EI delay are its writers. -/
theorem executeOne_interrupts {s t : State} (h : executeOne s = .next t) :
    (s.eiPending = false ∧ (fetchInstr s).1 ≠ .di ∧ t.ime = s.ime) ∨
    ((fetchInstr s).1 = .di ∧ t.ime = false ∧ t.eiPending = false) ∨
    ((fetchInstr s).1 = .reti ∧ t.ime = true ∧ t.eiPending = false) ∨
    (s.eiPending = true ∧ (fetchInstr s).1 ≠ .di ∧ t.ime = true ∧ t.eiPending = false) := by
  obtain ⟨u, hu, rfl⟩ := executeOne_next h
  rcases exec_interrupts hu with ⟨hi, hime, hei⟩ | ⟨hi, hime, hei⟩ | ⟨hi, hime, hei⟩
  · cases hs : s.eiPending with
    | false => exact .inl ⟨rfl, hi, hime.trans (fetchInstr_ime s)⟩
    | true =>
      have still : u.eiPending = true := hei.elim (fun e => e.trans ((fetchInstr_eiPending s).trans hs)) id
      refine .inr (.inr (.inr ⟨rfl, hi, ?_, ?_⟩)) <;> simp [enableAfter, still]
  · rw [enableAfter_of_eiPending_false _ hei]
    exact .inr (.inl ⟨hi, hime, hei⟩)
  · rw [enableAfter_of_eiPending_false _ hei]
    exact .inr (.inr (.inl ⟨hi, hime, hei⟩))

/-- Settles O17: `executeOne_interrupts`; a dispatch leaves `ei_pending` 0, and nothing else in a step changes either bit. -/
theorem eiDelay : Obligations.EiDelay := by
  refine ⟨fun s t h hs ht => ?_, ?_⟩
  · have hs : (platformAct s).eiPending = false := (platformAct_eiPending s).trans hs
    rw [← platformAct_ime s]
    rcases cpuStep_next h with ⟨_, rfl⟩ | ⟨_, _, rfl⟩ | ⟨_, _, rfl⟩ | ⟨_, _, rfl⟩ | ⟨_, _, _, hd⟩ | ⟨_, _, he⟩
    · rfl
    · rfl
    · rfl
    · rfl
    · exact nomatch ht.symm.trans (entersHandler_of_dispatch hd).eiPending
    · rcases executeOne_interrupts he with ⟨_, _, hime⟩ | ⟨_, _, hei⟩ | ⟨_, _, hei⟩ | ⟨hei, _⟩
      · exact hime
      · exact nomatch ht.symm.trans hei
      · exact nomatch ht.symm.trans hei
      · exact nomatch hs.symm.trans hei
  · intro s t u hm hime hei h
    have executed : executeOne u = .next t := (cpuStep_eq_executeOne hm (.inl hime)).symm.trans h
    rcases executeOne_interrupts executed with ⟨none, _⟩ | ⟨hi, hime, hei⟩ | ⟨hi, hime, hei⟩ | ⟨_, hi, hime, hei⟩
    · exact nomatch hei.symm.trans none
    · exact ⟨hei, .inl ⟨hi, hime⟩⟩
    · exact ⟨hei, .inr ⟨by rw [hi]; decide, hime⟩⟩
    · exact ⟨hei, .inr ⟨hi, hime⟩⟩

theorem pending_ne_zero_of_hasPending {s : State} (h : s.hasPending = true) : s.pending ≠ 0 := bne_iff_ne.mp h

/-- Settles O18: the branches of a step that can change IME are a dispatch and one instruction (`executeOne_interrupts`). -/
theorem imeWriters : Obligations.ImeWriters := by
  intro s t h changed u
  have changed : t.ime ≠ u.ime := platformAct_ime s ▸ changed
  rcases cpuStep_next h with ⟨_, rfl⟩ | ⟨_, _, rfl⟩ | ⟨_, _, rfl⟩ | ⟨_, _, rfl⟩ | ⟨_, _, hp, hd⟩ | ⟨_, _, he⟩
  · exact absurd rfl changed
  · exact absurd rfl changed
  · exact absurd rfl changed
  · exact absurd rfl changed
  · exact .inl ⟨(entersHandler_of_dispatch hd).ime, pending_ne_zero_of_hasPending hp, hd⟩
  · rcases executeOne_interrupts he with ⟨_, _, hime⟩ | ⟨hi, hime, _⟩ | ⟨hi, hime, _⟩ | ⟨hei, _, hime, _⟩
    · exact absurd hime changed
    · exact .inr (.inl ⟨hime, hi⟩)
    · exact .inr (.inr (.inl ⟨hime, hi⟩))
    · exact .inr (.inr (.inr ⟨hime, (platformAct_eiPending s).symm.trans hei⟩))

/-! ## The mode (R40, R253) -/

/-- What one whole instruction does to the mode. -/
theorem executeOne_mode {s t : State} (h : executeOne s = .next t) :
    t.mode = s.mode ∨
    ((fetchInstr s).1 = .halt ∧ t.mode = .halted) ∨
    ((fetchInstr s).1 = .stop 0x00 ∧ (fetchInstr s).2.stopAccount 0x00 = none ∧ t.mode = .stopped) ∨
    (∃ pad e, (fetchInstr s).1 = .stop pad ∧ (fetchInstr s).2.stopAccount pad = some e ∧ t.mode = e.mode) ∨
    (isInvalid (fetchInstr s).1 = true ∧ t.mode = .locked) := by
  obtain ⟨u, hu, rfl⟩ := executeOne_next h
  have delay : (enableAfter s.eiPending u).mode = u.mode := by
    rcases enableAfter_spec s.eiPending u with ⟨_, _, e⟩ | ⟨_, e⟩ <;> rw [e]
  rw [delay, ← fetchInstr_mode s]
  generalize (fetchInstr s).1 = i at hu
  cases exec_controlEffect hu with
  | kept _ same => exact .inl same.mode
  | reti => exact .inl (returnFromInterrupt_mode _)
  | di | ei | haltBug => exact .inl rfl
  | halted => exact .inr (.inl ⟨rfl, rfl⟩)
  | stopped none => exact .inr (.inr (.inl ⟨rfl, none, rfl⟩))
  | account he => exact .inr (.inr (.inr (.inl ⟨_, _, rfl, he, rfl⟩)))
  | locked hi => exact .inr (.inr (.inr (.inr ⟨hi, rfl⟩)))

/-- Settles O19: a step leaves Halted or Stopped by waking, or it executes one instruction (`executeOne_mode`). -/
theorem modeWriters : Obligations.ModeWriters := by
  intro s t h changed u v i
  have hmode : u.mode = s.mode := platformAct_mode s
  have woken (hm : u.mode = .running ∨ u.mode = .halted ∧ u.hasPending = true) (ht : t.mode = .running) :
      s.mode = .halted ∧ u.pending ≠ 0 := by
    rcases hm with hm | ⟨hm, hp⟩
    · exact absurd (ht.trans (hm.symm.trans hmode)) changed
    · exact ⟨hmode.symm.trans hm, pending_ne_zero_of_hasPending hp⟩
  have active (hm : u.mode = .running ∨ u.mode = .halted ∧ u.hasPending = true) : s.mode = .running ∨ s.mode = .halted :=
    hmode ▸ hm.imp_right And.left
  rcases cpuStep_next h with ⟨_, rfl⟩ | ⟨_, _, rfl⟩ | ⟨hm, hw, rfl⟩ | ⟨_, _, rfl⟩ | ⟨hm, _, _, hd⟩ | ⟨hm, _, he⟩
  · exact absurd hmode changed
  · exact absurd hmode changed
  · exact .inr (.inl ⟨rfl, hmode.symm.trans hm, hw, fun default => (stopWakes_of_nil default).symm.trans hw⟩)
  · exact absurd hmode changed
  · have running : t.mode = .running := (entersHandler_of_dispatch hd).mode
    obtain ⟨asleep, hp⟩ := woken hm running
    exact .inl ⟨running, asleep, hp⟩
  · rcases executeOne_mode he with ht | ⟨hi, ht⟩ | ⟨hi, none, ht⟩ | ⟨pad, e, hi, listed, ht⟩ | ⟨hi, ht⟩
    · obtain ⟨asleep, hp⟩ := woken hm ht
      exact .inl ⟨ht, asleep, hp⟩
    · refine .inr (.inr (.inl ⟨ht, (active hm).resolve_right fun asleep => changed (ht.trans asleep.symm), hi⟩))
    · exact .inr (.inr (.inr (.inl ⟨ht, active hm, hi, none⟩)))
    · exact .inr (.inr (.inr (.inr (.inl ⟨active hm, pad, e, hi, listed, ht⟩))))
    · exact .inr (.inr (.inr (.inr (.inr ⟨ht, active hm, hi⟩))))

/-! ## Refusals (R220, R232, R132, R142) -/

/-- A refused step is a refused dispatch or a refused instruction. -/
theorem cpuStep_refused {s : State} {r : Refusal} (h : cpuStep s = .refused r) :
    (s.ime = true ∧ s.hasPending = true ∧ dispatchInterrupt { s with mode := .running } = .refused r) ∨
    executeOne { s with mode := .running } = .refused r := by
  have last (hd : dispatchOrExecute { s with mode := .running } = .refused r) :
      (s.ime = true ∧ s.hasPending = true ∧ dispatchInterrupt { s with mode := .running } = .refused r) ∨
      executeOne { s with mode := .running } = .refused r := by
    unfold dispatchOrExecute at hd
    split at hd
    · rename_i hc
      obtain ⟨hime, hp⟩ := Bool.and_eq_true_iff.mp hc
      exact .inl ⟨hime, hp, hd⟩
    · exact .inr hd
  unfold cpuStep at h
  split at h
  case h_1 => exact nomatch h
  case h_2 => exact nomatch h
  case h_3 =>
    split at h
    · exact last h
    · exact nomatch h
  case h_4 hm =>
    refine last ?_
    rw [← hm]
    exact h

/-- A refused instruction is one of `stop` or `halt`. -/
theorem executeOne_refused {s : State} {r : Refusal} (h : executeOne s = .refused r) :
    ((fetchInstr s).1 = .halt ∧ execHalt (fetchInstr s).2 = .refused r) ∨
    ∃ pad, (fetchInstr s).1 = .stop pad ∧ execStop pad (fetchInstr s).2 = .refused r := by
  have refused : exec (fetchInstr s).1 (fetchInstr s).2 = .refused r := by
    unfold executeOne at h
    split at h
    case h_1 => exact nomatch h
    case h_2 => exact nomatch h
    case h_3 he => rw [he, Host.Outcome.refused.inj h]
  by_cases hhalt : (fetchInstr s).1 = .halt
  · exact .inl ⟨hhalt, (hhalt ▸ refused :)⟩
  · by_cases hstop : ∃ pad, (fetchInstr s).1 = .stop pad
    · obtain ⟨pad, hpad⟩ := hstop
      exact .inr ⟨pad, hpad, (hpad ▸ refused :)⟩
    · obtain ⟨t, ht⟩ := exec_answers (fetchInstr s).1 hhalt (fun pad e => hstop ⟨pad, e⟩) (fetchInstr s).2
      exact nomatch refused.symm.trans ht

/-- Settles O20: the refusals of `dispatchInterrupt_spec`, `execStop_spec` and `execHalt_spec`, in terms of the state before
the fetch; there is no fault to answer (log entry 24). -/
theorem stepRefusals : Obligations.StepRefusals := by
  refine ⟨fun s r => (nomatch r), ?_⟩
  intro s r h v w
  rcases cpuStep_refused h with ⟨hime, hp, hd⟩ | he
  · rcases dispatchInterrupt_spec v with ⟨overlap, e⟩ | ⟨_, e⟩
    · exact .inl ⟨(Host.Outcome.refused.inj (e.symm.trans hd)).symm, hime, pending_ne_zero_of_hasPending hp, overlap⟩
    · exact nomatch e.symm.trans hd
  have pending : w.hasPending = true → v.pending ≠ 0 := fun hp =>
    fetchInstr_pending v ▸ pending_ne_zero_of_hasPending hp
  rcases executeOne_refused he with ⟨hi, hr⟩ | ⟨pad, hi, hr⟩
  · rcases execHalt_spec w with ⟨hei, hp, e⟩ | ⟨_, _, _, e⟩ | e
    · exact .inr (.inr (.inr ⟨(Host.Outcome.refused.inj (e.symm.trans hr)).symm, hi, (fetchInstr_eiPending v).symm.trans hei,
        pending hp⟩))
    · exact nomatch e.symm.trans hr
    · exact nomatch e.symm.trans hr
  · rcases execStop_spec pad w with ⟨_, _, e⟩ | ⟨none, hpad, e⟩ | ⟨none, rfl, hw, e⟩ | ⟨_, _, _, _, e⟩
    · exact nomatch e.symm.trans hr
    · exact .inr (.inl ⟨(Host.Outcome.refused.inj (e.symm.trans hr)).symm, pad, hpad, hi, none⟩)
    · refine .inr (.inr (.inl ⟨(Host.Outcome.refused.inj (e.symm.trans hr)).symm, hi, none, ?_⟩))
      exact hw.imp pending fun hj => (fetchInstr_joypadWake v).symm.trans hj
    · exact nomatch e.symm.trans hr

end Sys2Proof.Steps
end

section
/-! PROOFS of the statements about memory, the stack and the loads of A (20_memory.md R52 to R61, 10_state.md R26,
44_block3_stack_ldh_sp_misc.md R182 to R189, 60_exceptions.md R232 to R234). -/
namespace Sys2Proof.MemoryAndStack
open Sys2Proof.Machine Sys2Proof.Block0 Sys2Proof.Block3Misc Sys2Proof.Block3Control

/-! ## Who answers for an address (R52, R53) -/

theorem place_ieAddr (s : State) : s.place s.params.ieAddr = .ieReg := if_pos rfl

theorem place_ifAddr {s : State} (h : s.params.ifAddr ≠ s.params.ieAddr) : s.place s.params.ifAddr = .ifReg := by
  rw [State.place, if_neg h, if_pos rfl]

/-- Beside the two registers the regions of Platform decide (log entry 6). -/
theorem place_of_ne {s : State} {addr : Word} (hie : addr ≠ s.params.ieAddr) (hif : addr ≠ s.params.ifAddr) :
    s.place addr =
      if s.plat.owned.any (fun r => decide (r.lo ≤ addr) && decide (addr ≤ r.hi)) then .platform else .plain := by
  rw [State.place, if_neg hie, if_neg hif]
  rfl

theorem memRead_of_plain {s : State} {addr : Word} (h : s.place addr = .plain) : memRead s addr = (s.mem.read addr, s) := by
  simp only [memRead, h]

theorem memRead_of_platform {s : State} {addr : Word} (h : s.place addr = .platform) :
    memRead s addr = (Config.busRead s.plat.history addr, { s with plat := s.plat.note (.read addr) }) := by
  simp only [memRead, h]

theorem memRead_of_ieReg {s : State} {addr : Word} (h : s.place addr = .ieReg) : memRead s addr = (s.ieRead, s) := by
  simp only [memRead, h]

theorem memRead_of_ifReg {s : State} {addr : Word} (h : s.place addr = .ifReg) : memRead s addr = (s.ifRead, s) := by
  simp only [memRead, h]

theorem memWrite_of_plain {s : State} {addr : Word} (v : Byte) (h : s.place addr = .plain) :
    memWrite s addr v = { s with mem := s.mem.write addr v } := by
  simp only [memWrite, h]

theorem memWrite_of_platform {s : State} {addr : Word} (v : Byte) (h : s.place addr = .platform) :
    memWrite s addr v = { s with plat := s.plat.note (.write addr v) } := by
  simp only [memWrite, h]

theorem memWrite_of_ieReg {s : State} {addr : Word} (v : Byte) (h : s.place addr = .ieReg) :
    memWrite s addr v = { s with ie := s.ieWritten v } := by
  simp only [memWrite, h]

theorem memWrite_of_ifReg {s : State} {addr : Word} (v : Byte) (h : s.place addr = .ifReg) :
    memWrite s addr v = { s with iflag := v.extractLsb' 0 5, ifUpper := s.ifUpperWritten v } := by
  simp only [memWrite, h]

/-! ## Bits of IE and IF (R36, R37) -/

theorem getLsbD_append_low (hi : BitVec 3) (lo : BitVec 5) {k : Nat} (h : k < 5) : (hi ++ lo).getLsbD k = lo.getLsbD k := by
  rw [BitVec.getLsbD_append, if_pos h]

theorem getLsbD_append_high (hi : BitVec 3) (lo : BitVec 5) (k : Nat) : (hi ++ lo).getLsbD (5 + k) = hi.getLsbD k := by
  rw [BitVec.getLsbD_append, if_neg (by omega), Nat.add_sub_cancel_left]

theorem getLsbD_extract_low (v : Byte) {k : Nat} (h : k < 5) : (v.extractLsb' 0 5).getLsbD k = v.getLsbD k := by
  rw [BitVec.getLsbD_extractLsb', decide_eq_true h, Bool.true_and, Nat.zero_add]

theorem getLsbD_extract_high (v : Byte) {k : Nat} (h : k < 3) : (v.extractLsb' 5 3).getLsbD k = v.getLsbD (5 + k) := by
  rw [BitVec.getLsbD_extractLsb', decide_eq_true h, Bool.true_and]

/-- Bits 4 to 0 are stored and read as they are. -/
theorem interruptBits_low (s : State) (v : Byte) {k : Nat} (h : k < 5) :
    s.ieRead.getLsbD k = s.ie.getLsbD k ∧ s.ifRead.getLsbD k = s.iflag.getLsbD k ∧
    (s.ieWritten v).getLsbD k = v.getLsbD k := by
  simp only [State.ieRead, State.ifRead, State.ieWritten, getLsbD_append_low _ _ h, getLsbD_extract_low _ h, and_self]

/-- Bits 7 to 5 are as the parameters say (D16). -/
theorem interruptBits_high (s : State) (v : Byte) {k : Nat} (h : k < 3) :
    s.ieRead.getLsbD (5 + k) =
      (if s.params.ieUnused.stored.getLsbD k then s.ie.getLsbD (5 + k) else s.params.ieUnused.value.getLsbD k) ∧
    s.ifRead.getLsbD (5 + k) =
      (if s.params.ifUnused.stored.getLsbD k then s.ifUpper.getLsbD k else s.params.ifUnused.value.getLsbD k) ∧
    (s.params.ieUnused.stored.getLsbD k = true → (s.ieWritten v).getLsbD (5 + k) = v.getLsbD (5 + k)) ∧
    (s.params.ifUnused.stored.getLsbD k = true → (s.ifUpperWritten v).getLsbD k = v.getLsbD (5 + k)) := by
  refine ⟨?_, ?_, fun stored => ?_, fun stored => ?_⟩
  · rw [State.ieRead, getLsbD_append_high, UnusedBits.getLsbD_read, getLsbD_extract_high _ h]
  · rw [State.ifRead, getLsbD_append_high, UnusedBits.getLsbD_read]
  · rw [State.ieWritten, getLsbD_append_high, UnusedBits.getLsbD_write, if_pos stored, getLsbD_extract_high _ h]
  · rw [State.ifUpperWritten, UnusedBits.getLsbD_write, if_pos stored, getLsbD_extract_high _ h]

/-- Settles O26: each access by who answers for the address, the bits by `interruptBits_low` and `interruptBits_high`. -/
theorem byteAccess : Obligations.ByteAccess := by
  refine ⟨?readIe, ?readIf, ?readElse, ?writeIe, ?writeIf, ?writeElse, ?bits, ?reference⟩
  case readIe => exact fun s => memRead_of_ieReg (place_ieAddr s)
  case readIf => exact fun s h => memRead_of_ifReg (place_ifAddr h)
  case readElse =>
    intro s addr hie hif
    have place := place_of_ne hie hif
    split
    · next owned => exact memRead_of_platform (place.trans (if_pos owned))
    · next free => exact memRead_of_plain (place.trans (if_neg free))
  case writeIe => exact fun s v => memWrite_of_ieReg v (place_ieAddr s)
  case writeIf => exact fun s v h => memWrite_of_ifReg v (place_ifAddr h)
  case writeElse =>
    intro s addr v hie hif
    have place := place_of_ne hie hif
    split
    · next owned => exact memWrite_of_platform v (place.trans (if_pos owned))
    · next free => exact memWrite_of_plain v (place.trans (if_neg free))
  case bits => exact fun s v k => ⟨interruptBits_low s v, interruptBits_high s v⟩
  case reference =>
    intro s v h
    have ie : s.place 0xFFFF = .ieReg := by
      rw [State.place, h]
      rfl
    have if_ : s.place 0xFF0F = .ifReg := by
      rw [State.place, h]
      rfl
    rw [memRead_of_ieReg ie, memRead_of_ifReg if_, memWrite_of_ieReg v ie, memWrite_of_ifReg v if_, ieRead_reference h,
      ifRead_reference h, ieWritten_reference v h, ifUpperWritten_reference v h]
    exact ⟨rfl, rfl, rfl, rfl⟩

/-! ## Plain memory (R55, R58, R70) -/

theorem byteAt_of_plain {s : State} {addr : Word} (h : s.place addr = .plain) : s.byteAt addr = some (s.mem.read addr) := by
  simp only [State.byteAt, h]

/-- Platform's actions change no plain byte (R58). -/
theorem platformAct_byteAt_plain {s : State} {addr : Word} (h : s.place addr = .plain) :
    (platformAct s).byteAt addr = s.byteAt addr := by
  have place := (place_congr (platformAct_params s) (platformAct_owned s) addr).trans h
  rw [byteAt_of_plain place, byteAt_of_plain h, platformAct_mem]

/-- Settles O27: the rules of `memRead` and `memWrite`, and `platformAct_byteAt_plain`. -/
theorem plainMemory : Obligations.PlainMemory := by
  refine ⟨fun s addr v h => memRead_of_byteAt (memWrite_byteAt_same v h), fun s addr h unwritten => ?_,
    fun s addr other v => memWrite_byteAt_other s v, memRead_byteAt, fun s addr => platformAct_byteAt_plain⟩
  rw [memRead_of_plain h, Memory.read, unwritten]
  rfl

theorem exec_ldImm16A (addr : Word) (s : State) : exec (.ldImm16A addr) s = .next (memWrite s addr s.a) := rfl

theorem exec_ldAImm16 (addr : Word) (s : State) : exec (.ldAImm16 addr) s = .next (loadA s addr) := rfl

theorem exec_ldImm16Sp (addr : Word) (s : State) : exec (.ldImm16Sp addr) s = .next (memWrite16 s addr s.sp) := rfl

theorem loadA_a_of_byteAt {s : State} {addr : Word} {v : Byte} (h : s.byteAt addr = some v) : (loadA s addr).a = v := by
  rw [loadA_a, memRead_of_byteAt h]

/-- A load changes no byte. -/
theorem loadA_byteAt (s : State) (addr other : Word) : (loadA s addr).byteAt other = s.byteAt other :=
  memRead_byteAt s addr other

/-- The two bytes of a 16-bit store to plain memory, low byte first (R54, R55). -/
theorem memWrite16_byteAt {s : State} {addr : Word} (v : Word) (lo : s.place addr = .plain)
    (hi : s.place (addr + 1) = .plain) :
    (memWrite16 s addr v).byteAt addr = some (loByte v) ∧ (memWrite16 s addr v).byteAt (addr + 1) = some (hiByte v) := by
  have distinct : addr ≠ addr + 1 := by bv_omega
  exact ⟨(memWrite_byteAt_other _ _ distinct).trans (memWrite_byteAt_same _ lo),
    memWrite_byteAt_same _ ((memWrite_place s addr _ _).trans hi)⟩

/-- Settles O28: `memWrite16_byteAt`, and the load of the low byte leaves the high byte as it is. -/
theorem sixteenBitStore : Obligations.SixteenBitStore := by
  intro s addr lo hi
  obtain ⟨low, high⟩ := memWrite16_byteAt s.sp lo hi
  exact ⟨_, _, _, exec_ldImm16Sp addr s, exec_ldAImm16 addr _, loadA_a_of_byteAt low, exec_ldAImm16 (addr + 1) _,
    loadA_a_of_byteAt ((loadA_byteAt _ addr _).trans high)⟩

/-- A fetch gives the byte at PC. -/
theorem fetch8_fst (s : State) : (fetch8 s).1 = (memRead s s.pc).1 := rfl

/-- Settles O30: the byte stored is the byte that the fetch reads. -/
theorem fetchSeesStore : Obligations.FetchSeesStore := by
  intro s addr h
  refine ⟨_, exec_ldImm16A addr s, ?_⟩
  have stored : ({ memWrite s addr s.a with pc := addr } : State).byteAt addr = some s.a := memWrite_byteAt_same s.a h
  rw [fetch8_fst, memRead_of_byteAt stored]

/-! ## Push and pop (R60, R61) -/

theorem sub_one_sub_one (v : Word) : v - 1 - 1 = v - 2 := by bv_omega

theorem add_one_add_one (v : Word) : v + 1 + 1 = v + 2 := by bv_omega

/-- Settles O31: no access reads SP, so its two decrements or increments are one. -/
theorem pushAndPop : Obligations.PushAndPop := by
  refine ⟨fun s v => ?push, fun s => ?pop⟩
  case push =>
    intro s1 s2 s3
    have sp : s3.sp = s.sp - 2 := sub_one_sub_one s.sp
    rw [sp]
    change _ = ({ memWrite (memWrite s (s.sp - 1) (hiByte v)) (s.sp - 2) (loByte v) with sp := s3.sp } : State)
    rw [sp]
    rfl
  case pop =>
    intro lo s1 hi s2
    have sp : s2.sp = s.sp + 2 := add_one_add_one s.sp
    change pop16 s = (word hi.1 lo.1, { hi.2 with sp := s2.sp })
    rw [sp]
    rfl

section
variable {s : State}

/-- A push to plain memory changes SP and memory alone. -/
theorem push16_of_plain (hi : s.place (s.sp - 1) = .plain) (lo : s.place (s.sp - 2) = .plain) (v : Word) :
    push16 s v = { s with sp := s.sp - 2, mem := (push16 s v).mem } := by
  have lo' : (memWrite s (s.sp - 1) (hiByte v)).place (s.sp - 2) = .plain := (memWrite_place _ _ _ _).trans lo
  rw [push16, memWrite_of_plain _ lo', memWrite_of_plain _ hi]

/-- The bytes a push leaves in plain memory: the low byte at the new SP, the high byte above it. -/
theorem push16_byteAt (hi : s.place (s.sp - 1) = .plain) (lo : s.place (s.sp - 2) = .plain) (v : Word) :
    (push16 s v).byteAt (s.sp - 2) = some (loByte v) ∧ (push16 s v).byteAt (s.sp - 2 + 1) = some (hiByte v) := by
  have above : s.sp - 2 + 1 = s.sp - 1 := by bv_omega
  have distinct : s.sp - 1 ≠ s.sp - 2 := by bv_omega
  rw [above]
  exact ⟨memWrite_byteAt_same _ ((memWrite_place _ _ _ _).trans lo),
    (memWrite_byteAt_other _ _ distinct).trans (memWrite_byteAt_same _ hi)⟩

/-- A pop of two bytes that Platform does not answer for moves SP alone. -/
theorem pop16_of_byteAt {lo hi : Byte} (hlo : s.byteAt s.sp = some lo) (hhi : s.byteAt (s.sp + 1) = some hi) :
    pop16 s = (word hi lo, { s with sp := s.sp + 2 }) := by
  rw [pop16_eq, memRead_of_byteAt hlo, memRead_of_byteAt hhi]

/-- A pop right after a push gives back the word pushed and SP, wherever PC has gone in between. -/
theorem pop16_push16 (hi : s.place (s.sp - 1) = .plain) (lo : s.place (s.sp - 2) = .plain) (v pc : Word) :
    pop16 { push16 s v with pc := pc } = (v, { push16 s v with pc := pc, sp := s.sp }) := by
  obtain ⟨low, high⟩ := push16_byteAt hi lo v
  have sp : s.sp - 2 + 2 = s.sp := by bv_omega
  have popped := pop16_of_byteAt (s := { push16 s v with pc := pc }) low high
  rw [word_hiByte_loByte] at popped
  rw [popped, push16_sp, sp]

end

/-- A pair popped from what it holds is as it was; F goes through its byte (R26). -/
theorem writeR16Stk_readR16Stk (s : State) (r : R16Stk) : writeR16Stk s r (readR16Stk s r) = s := by
  cases r with
  | bc => simp only [writeR16Stk, readR16Stk, State.setBC, State.bc, hiByte_word, loByte_word]
  | de => simp only [writeR16Stk, readR16Stk, State.setDE, State.de, hiByte_word, loByte_word]
  | hl => simp only [writeR16Stk, readR16Stk, State.setHL, State.hl, hiByte_word, loByte_word]
  | af => simp only [writeR16Stk, readR16Stk, State.setAF, State.af, hiByte_word, loByte_word, ofByte_toByte]

/-- The pairs do not depend on memory. -/
theorem readR16Stk_mem (s : State) (m : Memory) (r : R16Stk) : readR16Stk { s with mem := m } r = readR16Stk s r := by
  cases r <;> rfl

/-- Settles O32: `pop16_push16`; of the same pair by `writeR16Stk_readR16Stk`. -/
theorem pushThenPop : Obligations.PushThenPop := by
  intro s r q hi lo
  refine ⟨_, exec_pushR16Stk r s, ?copy, ?same, ?others⟩
  case copy =>
    have popped := pop16_push16 hi lo (readR16Stk s r) (push16 s (readR16Stk s r)).pc
    rw [exec_popR16Stk, popped]
    dsimp only
    rw [push16_of_plain hi lo]
  case same =>
    have kept := writeR16Stk_readR16Stk { s with mem := (push16 s (readR16Stk s r)).mem } r
    rwa [readR16Stk_mem] at kept
  case others =>
    intro addr outside
    have neither : ¬ (addr = s.sp - 1 ∨ addr = s.sp - 2) := fun h => outside (by simpa [pushAddrs] using h)
    obtain ⟨ne1, ne2⟩ := not_or.mp neither
    exact push16_byteAt_other s _ ne1 ne2

/-- A return right after a call is back after the call instruction, with memory as the call left it. -/
theorem ret_callTo {s : State} (hi : s.place (s.sp - 1) = .plain) (lo : s.place (s.sp - 2) = .plain) (target : Word) :
    exec .ret (callTo s target) = .next { s with mem := (callTo s target).mem } := by
  have popped := pop16_push16 hi lo s.pc target
  rw [exec_ret, returnFromCall, callTo, popped]
  dsimp only
  rw [push16_of_plain hi lo]

/-- Settles O33: `ret_callTo`. -/
theorem callThenRet : Obligations.CallThenRet := by
  intro s hi lo
  refine ⟨fun addr => ⟨_, exec_callImm16 addr s, rfl, ret_callTo hi lo addr⟩, fun tgt =>
    ⟨_, exec_rstTgt3 tgt s, ?_, ret_callTo hi lo _⟩⟩
  change (BitVec.ofNat 16 (8 * tgt.toNat)).toNat = 8 * tgt.toNat
  rw [BitVec.toNat_ofNat]
  omega

/-- Settles O11: the return pops what the dispatch pushed; the dispatch changed nothing of the CPU but what R232 lists. -/
theorem dispatchThenReti : Obligations.DispatchThenReti := by
  intro s t h hi lo
  rcases dispatchInterrupt_spec s with ⟨_, e⟩ | ⟨_, e⟩
  · exact nomatch e.symm.trans h
  obtain rfl := Host.Outcome.next.inj (e.symm.trans h)
  let u : State := { s with ime := false, eiPending := false, iflag := clearRequest s.iflag (leastSetBit s.pending) }
  have pushed := push16_of_plain (s := u) hi lo s.pc
  refine ⟨?_, ?_⟩
  · have popped := pop16_push16 (s := u) hi lo s.pc (vector (leastSetBit s.pending))
    rw [exec_reti, returnFromInterrupt, popped]
  · change ({ push16 u s.pc with pc := vector (leastSetBit s.pending) } : State) = _
    rw [pushed]

/-! ## Bits 3 to 0 of F (R26) -/

theorem toByte_and_low (f : Flags) : f.toByte &&& 0x0F = 0 := by
  obtain ⟨z, n, h, c⟩ := f
  revert z n h c
  decide

/-- Writing F from a byte keeps the bits of the mask 0xF0. -/
theorem toByte_ofByte : ∀ v : Byte, (Flags.ofByte v).toByte = v &&& 0xF0 := by decide

/-- The low nibble of a word is that of its low byte. -/
theorem word_and_low (hi lo : Byte) : word hi lo &&& 0x000F = word 0 (lo &&& 0x0F) := by
  have mask : (0x000F : Word) = word 0 0x0F := rfl
  rw [mask, word, word, BitVec.and_append]
  exact congrArg (word · (lo &&& 0x0F)) BitVec.and_zero

/-- Settles O25: `toByte_and_low`, `toByte_ofByte`, and what `pop af` makes of the low byte popped. -/
theorem flagBitsThreeToZero : Obligations.FlagBitsThreeToZero := by
  refine ⟨fun s => ⟨toByte_and_low s.f, ?_⟩, toByte_ofByte, fun s => ⟨_, exec_popR16Stk .af s, toByte_ofByte _⟩⟩
  rw [State.af, word_and_low, toByte_and_low]
  rfl

/-! ## Loads of A (R184 to R189) -/

/-- `HIGH_BASE` plus an unsigned byte, as a sum of numbers (R91). -/
theorem highPage_eq (s : State) (off : Byte) :
    highPage s off = BitVec.ofNat 16 (s.params.highBase.toNat + off.toNat) := by
  rw [BitVec.ofNat_add, BitVec.ofNat_toNat, BitVec.setWidth_eq, BitVec.ofNat_toNat]
  rfl

theorem exec_ldhCA (s : State) : exec .ldhCA s = .next (memWrite s (highPage s s.c) s.a) := rfl

theorem exec_ldhImm8A (off : Byte) (s : State) : exec (.ldhImm8A off) s = .next (memWrite s (highPage s off) s.a) := rfl

theorem exec_ldhAC (s : State) : exec .ldhAC s = .next (loadA s (highPage s s.c)) := rfl

theorem exec_ldhAImm8 (off : Byte) (s : State) : exec (.ldhAImm8 off) s = .next (loadA s (highPage s off)) := rfl

/-- Settles O51: the encodings, and each load and store at its address (`highPage_eq`). -/
theorem loadsOfA : Obligations.LoadsOfA := by
  refine ⟨by decide, encodes_of_length_one rfl rfl, encodes_of_length_one rfl rfl,
    fun off => ⟨encodes_of_length_two rfl rfl, encodes_of_length_two rfl rfl⟩,
    fun lo hi => ⟨encodes_of_length_three rfl rfl, encodes_of_length_three rfl rfl⟩, fun s => ?_⟩
  intro high loaded
  have high_eq (off : Byte) : high off = highPage s off := (highPage_eq s off).symm
  refine ⟨?_, fun off => ?_, fun addr => exec_ldImm16A addr s, ?_, fun off => ?_, fun addr => exec_ldAImm16 addr s⟩
  · rw [exec_ldhCA, high_eq]
  · rw [exec_ldhImm8A, high_eq]
  · rw [exec_ldhAC, high_eq]
    rfl
  · rw [exec_ldhAImm8, high_eq]
    rfl

end Sys2Proof.MemoryAndStack
end

section
/-! PROOFS of the statement about `daa` after `adc` and `sbc` (40_block0.md R126, R147, R149), with the decimal arithmetic on
numbers that it rests on. -/
namespace Sys2Proof.Arithmetic
open Sys2Proof.Machine Sys2Proof.Block0

/-! ## Decimal arithmetic (R126) -/

/-- The number that a byte of two decimal digits writes. -/
def decimal (n : Nat) : Nat := 10 * (n / 16) + n % 16

/-- The two corrections of `daa`, 6 where `low` holds and 96 where `high` holds. -/
def corrections (low high : Bool) : Nat := (if low then 6 else 0) + (if high then 96 else 0)

/-- A byte sum corrected for the carries out of its decimal digits is the decimal sum. -/
theorem decimal_add {a b c r : Nat} (ha : a % 16 ≤ 9) (ha' : a / 16 ≤ 9) (hb : b % 16 ≤ 9) (hb' : b / 16 ≤ 9) (hc : c ≤ 1)
    {low high : Bool} (hlow : low = decide (9 < a % 16 + b % 16 + c))
    (hhigh : high = decide (100 ≤ decimal a + decimal b + c)) (hr : r = (a + b + c + corrections low high) % 256) :
    r % 16 ≤ 9 ∧ decimal r = (decimal a + decimal b + c) % 100 := by
  have value : r + (if high then 160 else 0) = a + b + c + (if low then 6 else 0) := by
    subst hlow hhigh hr
    unfold decimal corrections
    simp only [decide_eq_true_eq]
    split_ifs <;> omega
  subst hlow hhigh
  unfold decimal at *
  simp only [decide_eq_true_eq] at value
  split_ifs at value <;> omega

/-- A byte difference corrected for the borrows into its decimal digits is the decimal difference. -/
theorem decimal_sub {a b c r : Nat} (ha : a % 16 ≤ 9) (ha' : a / 16 ≤ 9) (hb : b % 16 ≤ 9) (hb' : b / 16 ≤ 9) (hc : c ≤ 1)
    {low high : Bool} (hlow : low = decide (a % 16 < b % 16 + c)) (hhigh : high = decide (a < b + c))
    (hr : (r : Int) = (a - b - c - corrections low high) % 256) :
    r % 16 ≤ 9 ∧ decimal r = (decimal a + 200 - decimal b - c) % 100 ∧ high = decide (decimal a < decimal b + c) := by
  have value : r + b + c + (if low then 6 else 0) = a + (if high then 160 else 0) := by
    subst hlow hhigh
    unfold corrections at hr
    simp only [decide_eq_true_eq] at hr ⊢
    split_ifs at hr ⊢ <;> omega
  subst hlow hhigh
  unfold decimal at *
  simp only [decide_eq_true_eq] at value
  refine ⟨?_, ?_, decide_eq_decide.mpr (by omega)⟩ <;> split_ifs at value <;> omega

/-- `adc a, b` (R147). -/
theorem exec_adcAR8_b (s : State) :
    exec (.adcAR8 .b) s = .next { s with a := (add8 s.a s.b s.f.c).1, f := (add8 s.a s.b s.f.c).2 } := rfl

/-- `sbc a, b` (R149). -/
theorem exec_sbcAR8_b (s : State) :
    exec (.sbcAR8 .b) s = .next { s with a := (sub8 s.a s.b s.f.c).1, f := (sub8 s.a s.b s.f.c).2 } := rfl

/-- `daa` after `adc` corrects the low digit when the low digits add up to more than 9. -/
theorem daaFixesLow_add8 {a v : Byte} (cin : Bool) (ha : a.toNat % 16 ≤ 9) (hv : v.toNat % 16 ≤ 9) :
    ((add8 a v cin).2.h || decide (9 < (add8 a v cin).1.toNat % 16)) =
      decide (9 < a.toNat % 16 + v.toNat % 16 + cin.toNat) := by
  have hc : cin.toNat ≤ 1 := Bool.toNat_le cin
  rw [Block2.add8_eq, ← Bool.decide_or, BitVec.toNat_ofNat]
  exact decide_eq_decide.mpr (by omega)

/-- `daa` after `adc` corrects the high digit when the decimal sum is more than 99. -/
theorem daaFixesHigh_add8 {a v : Byte} (cin : Bool) (ha : a.toNat % 16 ≤ 9) (hv : v.toNat % 16 ≤ 9) :
    ((add8 a v cin).2.c || decide (0x99 < (add8 a v cin).1.toNat)) =
      decide (100 ≤ decimal a.toNat + decimal v.toNat + cin.toNat) := by
  have hc : cin.toNat ≤ 1 := Bool.toNat_le cin
  rw [Block2.add8_eq, ← Bool.decide_or, BitVec.toNat_ofNat]
  unfold decimal
  exact decide_eq_decide.mpr (by omega)

/-- A after `adc` and the corrections of `daa`. -/
theorem toNat_add8_corrected (a v : Byte) (cin low high : Bool) :
    (BitVec.ofNat 8 (((add8 a v cin).1.toNat + (if low then 6 else 0) + (if high then 96 else 0)) % 256)).toNat =
      (a.toNat + v.toNat + cin.toNat + corrections low high) % 256 := by
  rw [Block2.add8_eq, BitVec.toNat_ofNat, BitVec.toNat_ofNat]
  unfold corrections
  omega

/-- A after `sbc` and the corrections of `daa`. -/
theorem toNat_sub8_corrected (a v : Byte) (cin low high : Bool) :
    ((BitVec.ofInt 8 ((sub8 a v cin).1.toNat - (if low then 6 else 0) - (if high then 96 else 0))).toNat : Int) =
      (a.toNat - v.toNat - cin.toNat - corrections low high) % 256 := by
  rw [Block2.sub8_eq, BitVec.toNat_ofInt, BitVec.toNat_ofInt]
  unfold corrections
  cases low <;> cases high <;> simp <;> omega

/-- Settles O42: the corrections that `daa` makes (`daaRule`) are those that `decimal_add` and `decimal_sub` ask for. -/
theorem daaIsDecimal : Obligations.DaaIsDecimal := by
  intro s ha ha' hb hb' x y c
  have hc : c ≤ 1 := Bool.toNat_le s.f.c
  refine ⟨?add, ?sub⟩
  case add =>
    have run := (daaRule.2 { s with a := (add8 s.a s.b s.f.c).1, f := (add8 s.a s.b s.f.c).2 }).1 rfl
    have high := daaFixesHigh_add8 s.f.c ha hb
    obtain ⟨digit, value⟩ := decimal_add ha ha' hb hb' hc (daaFixesLow_add8 s.f.c ha hb) high
      (toNat_add8_corrected s.a s.b s.f.c _ _)
    exact ⟨_, _, exec_adcAR8_b s, run, digit, value, high⟩
  case sub =>
    have run := (daaRule.2 { s with a := (sub8 s.a s.b s.f.c).1, f := (sub8 s.a s.b s.f.c).2 }).2 rfl
    obtain ⟨digit, value, borrow⟩ := decimal_sub ha ha' hb hb' hc rfl rfl (toNat_sub8_corrected s.a s.b s.f.c _ _)
    exact ⟨_, _, exec_sbcAR8_b s, run, digit, value, borrow⟩

end Sys2Proof.Arithmetic
end

section
/-! PROOFS of the statements about the launch states (70_reset_and_hazards.md R260 to R262) and the durations (R277). -/
namespace Sys2Proof.LaunchAndTiming
open Sys2Proof.Machine

/-! ## Launch states (R260 to R262) -/

/-- Settles O23: no HALT bug is armed in either state, and memory is empty or as the premises say. -/
theorem invAtLaunch : Obligations.InvAtLaunch := by
  refine ⟨⟨rfl, nofun⟩, ⟨rfl, rfl, rfl⟩, fun checksumZero mem plat params wf hie hif => ⟨⟨?_, nofun⟩, ⟨rfl, rfl, rfl⟩⟩⟩
  exact (memOk_iff _).mpr ⟨wf, hie, hif⟩

/-- Platform owns nothing at reset, so that all but the two registers is plain memory that nothing has written. -/
theorem reset_byteAt {addr : Word} (hie : addr ≠ 0xFFFF) (hif : addr ≠ 0xFF0F) :
    State.reset.byteAt addr = some (Config.launchByte addr) := by
  have plain : State.reset.place addr = .plain := (MemoryAndStack.place_of_ne hie hif).trans rfl
  rw [MemoryAndStack.byteAt_of_plain plain]
  rfl

/-- AF after the boot ROM, by the cartridge's header checksum. -/
theorem afterBootRom_af (checksumZero : Bool) (mem : Memory) (plat : Platform) (params : Params) :
    (State.afterBootRom checksumZero mem plat params).af = if checksumZero then 0x0180 else 0x01B0 := by
  change word 0x01 (Flags.toByte ⟨true, false, !checksumZero, !checksumZero⟩) = _
  revert checksumZero
  decide

/-- The other pairs after the boot ROM. -/
theorem afterBootRom_pairs (checksumZero : Bool) (mem : Memory) (plat : Platform) (params : Params) :
    (State.afterBootRom checksumZero mem plat params).bc = 0x0013 ∧
    (State.afterBootRom checksumZero mem plat params).de = 0x00D8 ∧
    (State.afterBootRom checksumZero mem plat params).hl = 0x014D := by
  change word 0x00 0x13 = 0x0013 ∧ word 0x00 0xD8 = 0x00D8 ∧ word 0x01 0x4D = 0x014D
  decide

/-- Settles O24: the fields are read off; IE and IF read as the reference values say (`ieRead_reference`,
`ifRead_reference`). -/
theorem launchValues : Obligations.LaunchValues := by
  refine ⟨⟨rfl, rfl, rfl, rfl, rfl, rfl, rfl, rfl, fun addr => reset_byteAt⟩, ?_⟩
  intro checksumZero mem plat params s
  obtain ⟨bc, de, hl⟩ := afterBootRom_pairs checksumZero mem plat params
  refine ⟨afterBootRom_af checksumZero mem plat params, bc, de, hl, rfl, rfl, rfl, rfl, rfl, rfl, rfl, rfl, fun href => ?_⟩
  have reference : s.params = Params.reference := href
  obtain ⟨_, _, _, _, _, _, _, atReference⟩ := MemoryAndStack.byteAccess
  obtain ⟨readIe, readIf, _⟩ := atReference s 0 reference
  rw [readIe, readIf]
  refine ⟨rfl, ?_⟩
  change (0b111#3 ++ 0b00001#5 : Byte) = 0xE1
  decide

/-! ## Durations (R277) -/

/-- A whole number of machine cycles, from one to six. -/
abbrev WholeCycles (n : Nat) : Prop := n % 4 = 0 ∧ 4 ≤ n ∧ n ≤ 24

theorem wholeCycles_ite {m n : Nat} (hm : WholeCycles m) (hn : WholeCycles n) (c : Prop) [Decidable c] :
    WholeCycles (if c then m else n) := by
  split
  · exact hm
  · exact hn

theorem tStates_wholeCycles (f : Flags) {i : Instr} (h : isInvalid i = false) :
    ∃ n, tStates f i = some n ∧ WholeCycles n := by
  cases i with
  | invalidD3 | invalidDB | invalidDD | invalidE3 | invalidE4 | invalidEB | invalidEC | invalidED | invalidF4 | invalidFC
  | invalidFD => exact nomatch h
  | prefixCB op2 =>
    exact ⟨_, rfl, wholeCycles_ite (wholeCycles_ite (by decide) (by decide) _) (by decide) _⟩
  | incR8 o | decR8 o | ldR8Imm8 o _ | ldR8R8 o _ | addAR8 o | adcAR8 o | subAR8 o | sbcAR8 o | andAR8 o | xorAR8 o
  | orAR8 o | cpAR8 o | rlcR8 o | rrcR8 o | rlR8 o | rrR8 o | slaR8 o | sraR8 o | swapR8 o | srlR8 o | bitB3R8 _ o
  | resB3R8 _ o | setB3R8 _ o | jrCondImm8 cc _ | retCond cc | jpCondImm16 cc _ | callCondImm16 cc _ =>
    exact ⟨_, rfl, wholeCycles_ite (by decide) (by decide) _⟩
  | _ => exact ⟨_, rfl, by decide⟩

/-- Settles O60: the invalid opcodes have no duration, all others one of `WholeCycles`. -/
theorem durationRange : Obligations.DurationRange := by
  intro f i
  split
  · next invalid =>
    cases i with
    | invalidD3 | invalidDB | invalidDD | invalidE3 | invalidE4 | invalidEB | invalidEC | invalidED | invalidF4 | invalidFC
    | invalidFD => rfl
    | _ => exact nomatch invalid
  · next valid =>
    obtain ⟨n, hn, whole, low, high⟩ := tStates_wholeCycles f (Bool.eq_false_iff.mpr valid)
    exact ⟨n / 4, by rw [hn]; congr 1; omega, by omega, by omega⟩

end Sys2Proof.LaunchAndTiming
end
